-- ==== Sys2Proof/Word.lean ====
section
/-! DEFINITION. The two word types of the core: the byte of every bus datum and 8-bit register
(00_scope.md R11, DATA_WIDTH) and the 16-bit word of PC and of every address (PC_WIDTH, ADDR_WIDTH). -/

namespace Sys2Proof

/-- `u8`: an 8-bit value; addition and subtraction are modulo 256 (00_scope.md R11, R12). -/
abbrev Byte := BitVec 8

/-- `u16`: a 16-bit value; addition and subtraction are modulo 65536 (00_scope.md R11, R12). -/
abbrev Word := BitVec 16

end Sys2Proof
end

