-- ==== Sys2Proof/Machine/Bits.lean ====
section
/-! DEFINITION. Bit-field, byte-order and sign-extension helpers on bytes and words (00_scope.md R12, R13). -/

namespace Sys2Proof

/-- `hi ++ lo`: the word with `hi` as its high byte (00_scope.md R12; 30_encoding.md R102). -/
def joinBytes (hi lo : Byte) : Word := hi ++ lo

/-- `w[15:8]`. -/
def hiByte (w : Word) : Byte := w.extractLsb' 8 8

/-- `w[7:0]`. -/
def loByte (w : Word) : Byte := w.extractLsb' 0 8

/-- `zext_16(v)`: a byte as a word (00_scope.md R13). -/
def zext (v : Byte) : Word := v.setWidth 16

/-- `sext(v)`: a byte read as signed, -128 to 127, as a word modulo 65536 (00_scope.md R13). -/
def sext (v : Byte) : Word := v.signExtend 16

end Sys2Proof
end

