-- ==== Sys2Proof/Machine/Flags.lean ====
section
/-! DEFINITION. The bits of the status register P and every computation of a result with its flags: SetNZ, the
binary and decimal sums and differences, compare, the shifts and the bit test. All on bytes and Bools; no state. -/

namespace Sys2Proof.Machine

/-- The eight bits of P by name (10_state.md R35). -/
inductive Flag where
  | c | z | i | d | b | u | v | n
  deriving DecidableEq, Repr

/-- The bit of P a flag stands at (10_state.md R35). -/
def Flag.bit : Flag → Nat
  | .c => 0
  | .z => 1
  | .i => 2
  | .d => 3
  | .b => 4
  | .u => 5
  | .v => 6
  | .n => 7

/-- `getFlag`: "reads one bit" (10_state.md R33). -/
def getFlag (p : Byte) (f : Flag) : Bool := p.getLsbD f.bit

/-- `setFlag`: "sets/clears exactly one bit of P, leaving others untouched" (10_state.md R33). -/
def setFlag (p : Byte) (f : Flag) (val : Bool) : Byte :=
  if val then p ||| (1#8 <<< f.bit) else p &&& ~~~(1#8 <<< f.bit)

/-- `SetNZ(v)`: N is bit 7 of the value, Z is whether it is 0 (10_state.md R40). -/
def setNZ (p : Byte) (val : Byte) : Byte :=
  setFlag (setFlag p .n (val.getLsbD 7)) .z (val == 0)

/-- The copy of P that PHP and BRK push, bits 4 and 5 forced to 1 (49_jumps_stack.md R384, R386). -/
def pushedP (p : Byte) : Byte := p ||| 0x30

/-- A result byte with the carry and overflow it leaves. -/
structure AluResult where
  result   : Byte
  carry    : Bool
  overflow : Bool
  deriving DecidableEq, Repr

/-- `Digit(n) = min(n, 9)`, n a nibble (42_arithmetic.md R244). -/
def bcdDigit (n : Nat) : Nat := min n 9

/-- `Dec(b) = 10 * Digit(b[7:4]) + Digit(b[3:0])` (42_arithmetic.md R244). -/
def decOfByte (b : Byte) : Nat := 10 * bcdDigit (b.toNat / 16) + bcdDigit (b.toNat % 16)

/-- `Bcd(n) = (n div 10) * 16 + (n mod 10)`, n in 0..99 (42_arithmetic.md R244). -/
def byteOfDec (n : Nat) : Byte := BitVec.ofNat 8 (n / 10 * 16 + n % 10)

/-- `((A ^ r) & (m ^ r))[7]`: the operands have one sign and the result the other (42_arithmetic.md R241). -/
def addOverflow (a m r : Byte) : Bool := ((a ^^^ r) &&& (m ^^^ r)).getLsbD 7

/-- `((A ^ m) & (A ^ r))[7]`: the operands' signs differ and the result's differs from A's (R242). -/
def subOverflow (a m r : Byte) : Bool := ((a ^^^ m) &&& (a ^^^ r)).getLsbD 7

/-- The binary sum of ADC: `s <- A + m + c`, C is `s > 255`, r is `s mod 256` (42_arithmetic.md R241). -/
def adcBinary (a m : Byte) (c : Bool) : AluResult :=
  let s := a.toNat + m.toNat + c.toNat
  let r := BitVec.ofNat 8 (s % 256)
  { result := r, carry := decide (s > 255), overflow := addOverflow a m r }

/-- The decimal sum of ADC: `s <- Dec(A) + Dec(m) + c`, C is `s > 99`, r is `Bcd(s mod 100)` (R241). -/
def adcDecimal (a m : Byte) (c : Bool) : AluResult :=
  let s := decOfByte a + decOfByte m + c.toNat
  let r := byteOfDec (s % 100)
  { result := r, carry := decide (s > 99), overflow := addOverflow a m r }

/-- The binary difference of SBC: `d <- A - m - (1 - c)`, C is `d >= 0`, r is `d mod 256` (R242). -/
def sbcBinary (a m : Byte) (c : Bool) : AluResult :=
  let d : Int := (a.toNat : Int) - m.toNat - (1 - c.toNat)
  let r := BitVec.ofNat 8 (d % 256).toNat
  { result := r, carry := decide (d ≥ 0), overflow := subOverflow a m r }

/-- The decimal difference of SBC: a borrow adds 100 and clears C (42_arithmetic.md R242). -/
def sbcDecimal (a m : Byte) (c : Bool) : AluResult :=
  let d : Int := (decOfByte a : Int) - decOfByte m - (1 - c.toNat)
  let r := if d < 0 then byteOfDec (d + 100).toNat else byteOfDec d.toNat
  { result := r, carry := decide (d ≥ 0), overflow := subOverflow a m r }

/-- ADC's result in the mode that `P.D == 1 and DECIMAL_ENABLED` selects (42_arithmetic.md R241). -/
def adcResult (decimal : Bool) (a m : Byte) (c : Bool) : AluResult :=
  if decimal then adcDecimal a m c else adcBinary a m c

/-- SBC's result in the mode that `P.D == 1 and DECIMAL_ENABLED` selects (42_arithmetic.md R242). -/
def sbcResult (decimal : Bool) (a m : Byte) (c : Bool) : AluResult :=
  if decimal then sbcDecimal a m c else sbcBinary a m c

/-- P after ADC or SBC: C, V, then N and Z from the result byte (42_arithmetic.md R241, R242). -/
def setArithFlags (p : Byte) (r : AluResult) : Byte :=
  setNZ (setFlag (setFlag p .c r.carry) .v r.overflow) r.result

/-- P after `Compare(r, m)`: `d <- r - m`, C is `d >= 0`, N and Z from `d mod 256` (46_compare_bit.md R320). -/
def compareFlags (p r m : Byte) : Byte :=
  let d : Int := (r.toNat : Int) - m.toNat
  setNZ (setFlag p .c (decide (d ≥ 0))) (BitVec.ofNat 8 (d % 256).toNat)

/-- P after BIT: N is m[7], V is m[6], Z is `(A & m) == 0` (46_compare_bit.md R324). -/
def bitFlags (p a m : Byte) : Byte :=
  setFlag (setFlag (setFlag p .n (m.getLsbD 7)) .v (m.getLsbD 6)) .z ((a &&& m) == 0)

/-- A shifted byte with the bit that goes to C. -/
structure ShiftResult where
  result : Byte
  carry  : Bool
  deriving DecidableEq, Repr

/-- ASL: C is v[7], r is `(v * 2) mod 256` (44_shifts.md R281). -/
def aslResult (v : Byte) (_c : Bool) : ShiftResult :=
  { result := BitVec.ofNat 8 (v.toNat * 2 % 256), carry := v.getLsbD 7 }

/-- LSR: C is v[0], r is `v div 2` (44_shifts.md R282). -/
def lsrResult (v : Byte) (_c : Bool) : ShiftResult :=
  { result := BitVec.ofNat 8 (v.toNat / 2), carry := v.getLsbD 0 }

/-- ROL: C is v[7], r is `(v * 2 + c) mod 256` (44_shifts.md R283). -/
def rolResult (v : Byte) (c : Bool) : ShiftResult :=
  { result := BitVec.ofNat 8 ((v.toNat * 2 + c.toNat) % 256), carry := v.getLsbD 7 }

/-- ROR: C is v[0], r is `(v div 2) + c * 128` (44_shifts.md R284). -/
def rorResult (v : Byte) (c : Bool) : ShiftResult :=
  { result := BitVec.ofNat 8 (v.toNat / 2 + c.toNat * 128), carry := v.getLsbD 0 }

end Sys2Proof.Machine
end

