-- ==== Sys2Proof/Config.lean ====
section
/-! DEFINITION. The implementation parameters of 00_scope.md R11, each at the value the spec gives it, and what
the spec leaves to the bus (20_memory.md R78): what a byte of memory that nothing has written reads as, and how
the part of the bus that is no memory answers. -/

namespace Sys2Proof.Machine

/-- What the bus is asked for: the two operations of the core (00_scope.md R7), and those that another agent makes
between steps (20_memory.md R73; 70_reset_and_hazards.md R621). -/
inductive AccessKind where
  | read
  | write
  | foreignRead
  | foreignWrite
  deriving DecidableEq, Repr

/-- One bus access, with the byte that moved (20_memory.md R61, R62, R72). In another agent's failed read, where none
moved, it is 0x00 (log entry 8). -/
structure BusAccess where
  kind    : AccessKind
  address : Word
  value   : Byte
  deriving DecidableEq, Repr

end Sys2Proof.Machine

namespace Sys2Proof

/-- The power-up values of the registers that reset loads with a constant (70_reset_and_hazards.md R600).
The spec lets a model take them as arguments (R601), so they are a record. -/
structure ResetValues where
  a  : Byte
  x  : Byte
  y  : Byte
  sp : Byte
  p  : Byte
  deriving DecidableEq, Repr

/-- `RESET_A`, `RESET_X`, `RESET_Y` = 0x00, `RESET_SP` = 0x00, `RESET_P` = 0x34 (R11; log entry 4). -/
def Config.resetValues : ResetValues := { a := 0x00, x := 0x00, y := 0x00, sp := 0x00, p := 0x34 }

/-- `DECIMAL_ENABLED` = true: ADC and SBC use BCD when P.D = 1 (R11; 90_conflicts.md C11). -/
def Config.decimalEnabled : Bool := true

/-- `STACK_BASE` = 0x0100 (R11). -/
def Config.stackBase : Word := 0x0100

/-- `RESET_VECTOR`: 0xFFFC holds the low byte, 0xFFFD the high byte (R11). -/
def Config.resetVector : Word := 0xFFFC

/-- `IRQ_BRK_VECTOR`: 0xFFFE holds the low byte, 0xFFFF the high byte (R11). -/
def Config.brkVector : Word := 0xFFFE

/-- What an address that memory does not list reads as. DESIGN CHOICE (log entry 1, unsafe): the spec
leaves the bus's contents to the platform; its test vectors read 0x00 there (95_test_vectors.md). -/
def Config.unlistedByte : Byte := 0x00

/-- The answer of what is no memory (a device, a mapper) to a read of this kind: a byte, or the report of a failure. It
depends on everything the bus has been asked so far, newest first (20_memory.md R78). A FREE VALUE: it has no
body, so a proof about it holds for every such bus (log entry 2). -/
opaque Config.externalRead : List Machine.BusAccess → Machine.AccessKind → Word → Except Nat Byte

/-- Whether what is no memory fails a write of this kind, and its report; an accepted write shows in the answers of later
reads, which know that it was made (20_memory.md R62, R78). A FREE VALUE (log entry 2). -/
opaque Config.externalWrite : List Machine.BusAccess → Machine.AccessKind → Word → Byte → Option Nat

end Sys2Proof
end

