-- ==== Sys2Proof/Syntax.lean ====
section
/-! DEFINITION. The instructions as syntax: the 13 addressing modes (30_encoding.md R101), the 56 mnemonics,
operands with their bytes, and one constructor of Instr per row of spec/opcode_table.json (R111).
Every constructor carries exactly the operand its addressing mode has: a byte, a word or nothing. -/

namespace Sys2Proof

/-- The closed enumeration of 13 addressing modes (30_encoding.md R101). -/
inductive Mode where
  | implied
  | accumulator
  | immediate
  | zeroPage
  | zeroPageIndexedX
  | zeroPageIndexedY
  | absolute
  | absoluteIndexedX
  | absoluteIndexedY
  | absoluteIndirect
  | indirectX
  | indirectY
  | relative
  deriving DecidableEq, Repr

/-- The 56 mnemonics of the opcode map (30_encoding.md R111). -/
inductive Mnemonic where
  | lda | ldx | ldy | sta | stx | sty
  | tax | tay | tsx | txa | txs | tya
  | adc | sbc
  | inc | dec | inx | iny | dex | dey
  | asl | lsr | rol | ror
  | and | ora | eor
  | cmp | cpx | cpy | bit
  | bcc | bcs | beq | bmi | bne | bpl | bvc | bvs
  | clc | cld | cli | clv | sec | sed | sei
  | jmp | jsr | rts | brk | rti | php | pha | plp | pla | nop
  deriving DecidableEq, Repr

/-- An operand: an addressing mode with the operand bytes it consumes. A two-byte operand is held as the
word `hi ++ lo` it forms (30_encoding.md R101, R102). -/
inductive Operand where
  | implied
  | accumulator
  | immediate (v : Byte)
  | zeroPage (z : Byte)
  | zeroPageIndexedX (z : Byte)
  | zeroPageIndexedY (z : Byte)
  | absolute (w : Word)
  | absoluteIndexedX (w : Word)
  | absoluteIndexedY (w : Word)
  | absoluteIndirect (w : Word)
  | indirectX (z : Byte)
  | indirectY (z : Byte)
  | relative (off : Byte)
  deriving DecidableEq, Repr

/-- One constructor per row of spec/opcode_table.json. The name is the mnemonic followed by the mode:
Imm `#`, Zp `zp`, ZpX `zp,X`, ZpY `zp,Y`, Abs `abs`, AbsX `abs,X`, AbsY `abs,Y`, Ind `(abs)`,
IndX `(zp,X)`, IndY `(zp),Y`, Acc `A`; Implied and Relative add nothing. -/
inductive Instr where
  | ldaImm (v : Byte)
  | ldaZp (z : Byte)
  | ldaZpX (z : Byte)
  | ldaAbs (w : Word)
  | ldaAbsX (w : Word)
  | ldaAbsY (w : Word)
  | ldaIndX (z : Byte)
  | ldaIndY (z : Byte)
  | ldxImm (v : Byte)
  | ldxZp (z : Byte)
  | ldxZpY (z : Byte)
  | ldxAbs (w : Word)
  | ldxAbsY (w : Word)
  | ldyImm (v : Byte)
  | ldyZp (z : Byte)
  | ldyZpX (z : Byte)
  | ldyAbs (w : Word)
  | ldyAbsX (w : Word)
  | staZp (z : Byte)
  | staZpX (z : Byte)
  | staAbs (w : Word)
  | staAbsX (w : Word)
  | staAbsY (w : Word)
  | staIndX (z : Byte)
  | staIndY (z : Byte)
  | stxZp (z : Byte)
  | stxZpY (z : Byte)
  | stxAbs (w : Word)
  | styZp (z : Byte)
  | styZpX (z : Byte)
  | styAbs (w : Word)
  | tax
  | tay
  | tsx
  | txa
  | txs
  | tya
  | adcImm (v : Byte)
  | adcZp (z : Byte)
  | adcZpX (z : Byte)
  | adcAbs (w : Word)
  | adcAbsX (w : Word)
  | adcAbsY (w : Word)
  | adcIndX (z : Byte)
  | adcIndY (z : Byte)
  | sbcImm (v : Byte)
  | sbcZp (z : Byte)
  | sbcZpX (z : Byte)
  | sbcAbs (w : Word)
  | sbcAbsX (w : Word)
  | sbcAbsY (w : Word)
  | sbcIndX (z : Byte)
  | sbcIndY (z : Byte)
  | incZp (z : Byte)
  | incZpX (z : Byte)
  | incAbs (w : Word)
  | incAbsX (w : Word)
  | decZp (z : Byte)
  | decZpX (z : Byte)
  | decAbs (w : Word)
  | decAbsX (w : Word)
  | inx
  | iny
  | dex
  | dey
  | aslAcc
  | aslZp (z : Byte)
  | aslZpX (z : Byte)
  | aslAbs (w : Word)
  | aslAbsX (w : Word)
  | lsrAcc
  | lsrZp (z : Byte)
  | lsrZpX (z : Byte)
  | lsrAbs (w : Word)
  | lsrAbsX (w : Word)
  | rolAcc
  | rolZp (z : Byte)
  | rolZpX (z : Byte)
  | rolAbs (w : Word)
  | rolAbsX (w : Word)
  | rorAcc
  | rorZp (z : Byte)
  | rorZpX (z : Byte)
  | rorAbs (w : Word)
  | rorAbsX (w : Word)
  | andImm (v : Byte)
  | andZp (z : Byte)
  | andZpX (z : Byte)
  | andAbs (w : Word)
  | andAbsX (w : Word)
  | andAbsY (w : Word)
  | andIndX (z : Byte)
  | andIndY (z : Byte)
  | oraImm (v : Byte)
  | oraZp (z : Byte)
  | oraZpX (z : Byte)
  | oraAbs (w : Word)
  | oraAbsX (w : Word)
  | oraAbsY (w : Word)
  | oraIndX (z : Byte)
  | oraIndY (z : Byte)
  | eorImm (v : Byte)
  | eorZp (z : Byte)
  | eorZpX (z : Byte)
  | eorAbs (w : Word)
  | eorAbsX (w : Word)
  | eorAbsY (w : Word)
  | eorIndX (z : Byte)
  | eorIndY (z : Byte)
  | cmpImm (v : Byte)
  | cmpZp (z : Byte)
  | cmpZpX (z : Byte)
  | cmpAbs (w : Word)
  | cmpAbsX (w : Word)
  | cmpAbsY (w : Word)
  | cmpIndX (z : Byte)
  | cmpIndY (z : Byte)
  | cpxImm (v : Byte)
  | cpxZp (z : Byte)
  | cpxAbs (w : Word)
  | cpyImm (v : Byte)
  | cpyZp (z : Byte)
  | cpyAbs (w : Word)
  | bitZp (z : Byte)
  | bitAbs (w : Word)
  | bcc (off : Byte)
  | bcs (off : Byte)
  | beq (off : Byte)
  | bmi (off : Byte)
  | bne (off : Byte)
  | bpl (off : Byte)
  | bvc (off : Byte)
  | bvs (off : Byte)
  | clc
  | cld
  | cli
  | clv
  | sec
  | sed
  | sei
  | jmpAbs (w : Word)
  | jmpInd (w : Word)
  | jsrAbs (w : Word)
  | rts
  | brk
  | rti
  | php
  | pha
  | plp
  | pla
  | nop
  deriving DecidableEq, Repr

/-- The addressing mode of an operand. -/
def Operand.mode : Operand → Mode
  | .implied => .implied
  | .accumulator => .accumulator
  | .immediate _ => .immediate
  | .zeroPage _ => .zeroPage
  | .zeroPageIndexedX _ => .zeroPageIndexedX
  | .zeroPageIndexedY _ => .zeroPageIndexedY
  | .absolute _ => .absolute
  | .absoluteIndexedX _ => .absoluteIndexedX
  | .absoluteIndexedY _ => .absoluteIndexedY
  | .absoluteIndirect _ => .absoluteIndirect
  | .indirectX _ => .indirectX
  | .indirectY _ => .indirectY
  | .relative _ => .relative

/-- The mnemonic of an instruction: the first half of `OpcodeMap[op]` (30_encoding.md R110). -/
def Instr.mnemonic : Instr → Mnemonic
  | .ldaImm _ | .ldaZp _ | .ldaZpX _ | .ldaAbs _ | .ldaAbsX _ | .ldaAbsY _ | .ldaIndX _ | .ldaIndY _ => .lda
  | .ldxImm _ | .ldxZp _ | .ldxZpY _ | .ldxAbs _ | .ldxAbsY _ => .ldx
  | .ldyImm _ | .ldyZp _ | .ldyZpX _ | .ldyAbs _ | .ldyAbsX _ => .ldy
  | .staZp _ | .staZpX _ | .staAbs _ | .staAbsX _ | .staAbsY _ | .staIndX _ | .staIndY _ => .sta
  | .stxZp _ | .stxZpY _ | .stxAbs _ => .stx
  | .styZp _ | .styZpX _ | .styAbs _ => .sty
  | .tax => .tax
  | .tay => .tay
  | .tsx => .tsx
  | .txa => .txa
  | .txs => .txs
  | .tya => .tya
  | .adcImm _ | .adcZp _ | .adcZpX _ | .adcAbs _ | .adcAbsX _ | .adcAbsY _ | .adcIndX _ | .adcIndY _ => .adc
  | .sbcImm _ | .sbcZp _ | .sbcZpX _ | .sbcAbs _ | .sbcAbsX _ | .sbcAbsY _ | .sbcIndX _ | .sbcIndY _ => .sbc
  | .incZp _ | .incZpX _ | .incAbs _ | .incAbsX _ => .inc
  | .decZp _ | .decZpX _ | .decAbs _ | .decAbsX _ => .dec
  | .inx => .inx
  | .iny => .iny
  | .dex => .dex
  | .dey => .dey
  | .aslAcc | .aslZp _ | .aslZpX _ | .aslAbs _ | .aslAbsX _ => .asl
  | .lsrAcc | .lsrZp _ | .lsrZpX _ | .lsrAbs _ | .lsrAbsX _ => .lsr
  | .rolAcc | .rolZp _ | .rolZpX _ | .rolAbs _ | .rolAbsX _ => .rol
  | .rorAcc | .rorZp _ | .rorZpX _ | .rorAbs _ | .rorAbsX _ => .ror
  | .andImm _ | .andZp _ | .andZpX _ | .andAbs _ | .andAbsX _ | .andAbsY _ | .andIndX _ | .andIndY _ => .and
  | .oraImm _ | .oraZp _ | .oraZpX _ | .oraAbs _ | .oraAbsX _ | .oraAbsY _ | .oraIndX _ | .oraIndY _ => .ora
  | .eorImm _ | .eorZp _ | .eorZpX _ | .eorAbs _ | .eorAbsX _ | .eorAbsY _ | .eorIndX _ | .eorIndY _ => .eor
  | .cmpImm _ | .cmpZp _ | .cmpZpX _ | .cmpAbs _ | .cmpAbsX _ | .cmpAbsY _ | .cmpIndX _ | .cmpIndY _ => .cmp
  | .cpxImm _ | .cpxZp _ | .cpxAbs _ => .cpx
  | .cpyImm _ | .cpyZp _ | .cpyAbs _ => .cpy
  | .bitZp _ | .bitAbs _ => .bit
  | .bcc _ => .bcc
  | .bcs _ => .bcs
  | .beq _ => .beq
  | .bmi _ => .bmi
  | .bne _ => .bne
  | .bpl _ => .bpl
  | .bvc _ => .bvc
  | .bvs _ => .bvs
  | .clc => .clc
  | .cld => .cld
  | .cli => .cli
  | .clv => .clv
  | .sec => .sec
  | .sed => .sed
  | .sei => .sei
  | .jmpAbs _ | .jmpInd _ => .jmp
  | .jsrAbs _ => .jsr
  | .rts => .rts
  | .brk => .brk
  | .rti => .rti
  | .php => .php
  | .pha => .pha
  | .plp => .plp
  | .pla => .pla
  | .nop => .nop

/-- The operand of an instruction: the second half of `OpcodeMap[op]`, with the operand bytes. -/
def Instr.operand : Instr → Operand
  | .ldaImm v => .immediate v
  | .ldaZp z => .zeroPage z
  | .ldaZpX z => .zeroPageIndexedX z
  | .ldaAbs w => .absolute w
  | .ldaAbsX w => .absoluteIndexedX w
  | .ldaAbsY w => .absoluteIndexedY w
  | .ldaIndX z => .indirectX z
  | .ldaIndY z => .indirectY z
  | .ldxImm v => .immediate v
  | .ldxZp z => .zeroPage z
  | .ldxZpY z => .zeroPageIndexedY z
  | .ldxAbs w => .absolute w
  | .ldxAbsY w => .absoluteIndexedY w
  | .ldyImm v => .immediate v
  | .ldyZp z => .zeroPage z
  | .ldyZpX z => .zeroPageIndexedX z
  | .ldyAbs w => .absolute w
  | .ldyAbsX w => .absoluteIndexedX w
  | .staZp z => .zeroPage z
  | .staZpX z => .zeroPageIndexedX z
  | .staAbs w => .absolute w
  | .staAbsX w => .absoluteIndexedX w
  | .staAbsY w => .absoluteIndexedY w
  | .staIndX z => .indirectX z
  | .staIndY z => .indirectY z
  | .stxZp z => .zeroPage z
  | .stxZpY z => .zeroPageIndexedY z
  | .stxAbs w => .absolute w
  | .styZp z => .zeroPage z
  | .styZpX z => .zeroPageIndexedX z
  | .styAbs w => .absolute w
  | .tax => .implied
  | .tay => .implied
  | .tsx => .implied
  | .txa => .implied
  | .txs => .implied
  | .tya => .implied
  | .adcImm v => .immediate v
  | .adcZp z => .zeroPage z
  | .adcZpX z => .zeroPageIndexedX z
  | .adcAbs w => .absolute w
  | .adcAbsX w => .absoluteIndexedX w
  | .adcAbsY w => .absoluteIndexedY w
  | .adcIndX z => .indirectX z
  | .adcIndY z => .indirectY z
  | .sbcImm v => .immediate v
  | .sbcZp z => .zeroPage z
  | .sbcZpX z => .zeroPageIndexedX z
  | .sbcAbs w => .absolute w
  | .sbcAbsX w => .absoluteIndexedX w
  | .sbcAbsY w => .absoluteIndexedY w
  | .sbcIndX z => .indirectX z
  | .sbcIndY z => .indirectY z
  | .incZp z => .zeroPage z
  | .incZpX z => .zeroPageIndexedX z
  | .incAbs w => .absolute w
  | .incAbsX w => .absoluteIndexedX w
  | .decZp z => .zeroPage z
  | .decZpX z => .zeroPageIndexedX z
  | .decAbs w => .absolute w
  | .decAbsX w => .absoluteIndexedX w
  | .inx => .implied
  | .iny => .implied
  | .dex => .implied
  | .dey => .implied
  | .aslAcc => .accumulator
  | .aslZp z => .zeroPage z
  | .aslZpX z => .zeroPageIndexedX z
  | .aslAbs w => .absolute w
  | .aslAbsX w => .absoluteIndexedX w
  | .lsrAcc => .accumulator
  | .lsrZp z => .zeroPage z
  | .lsrZpX z => .zeroPageIndexedX z
  | .lsrAbs w => .absolute w
  | .lsrAbsX w => .absoluteIndexedX w
  | .rolAcc => .accumulator
  | .rolZp z => .zeroPage z
  | .rolZpX z => .zeroPageIndexedX z
  | .rolAbs w => .absolute w
  | .rolAbsX w => .absoluteIndexedX w
  | .rorAcc => .accumulator
  | .rorZp z => .zeroPage z
  | .rorZpX z => .zeroPageIndexedX z
  | .rorAbs w => .absolute w
  | .rorAbsX w => .absoluteIndexedX w
  | .andImm v => .immediate v
  | .andZp z => .zeroPage z
  | .andZpX z => .zeroPageIndexedX z
  | .andAbs w => .absolute w
  | .andAbsX w => .absoluteIndexedX w
  | .andAbsY w => .absoluteIndexedY w
  | .andIndX z => .indirectX z
  | .andIndY z => .indirectY z
  | .oraImm v => .immediate v
  | .oraZp z => .zeroPage z
  | .oraZpX z => .zeroPageIndexedX z
  | .oraAbs w => .absolute w
  | .oraAbsX w => .absoluteIndexedX w
  | .oraAbsY w => .absoluteIndexedY w
  | .oraIndX z => .indirectX z
  | .oraIndY z => .indirectY z
  | .eorImm v => .immediate v
  | .eorZp z => .zeroPage z
  | .eorZpX z => .zeroPageIndexedX z
  | .eorAbs w => .absolute w
  | .eorAbsX w => .absoluteIndexedX w
  | .eorAbsY w => .absoluteIndexedY w
  | .eorIndX z => .indirectX z
  | .eorIndY z => .indirectY z
  | .cmpImm v => .immediate v
  | .cmpZp z => .zeroPage z
  | .cmpZpX z => .zeroPageIndexedX z
  | .cmpAbs w => .absolute w
  | .cmpAbsX w => .absoluteIndexedX w
  | .cmpAbsY w => .absoluteIndexedY w
  | .cmpIndX z => .indirectX z
  | .cmpIndY z => .indirectY z
  | .cpxImm v => .immediate v
  | .cpxZp z => .zeroPage z
  | .cpxAbs w => .absolute w
  | .cpyImm v => .immediate v
  | .cpyZp z => .zeroPage z
  | .cpyAbs w => .absolute w
  | .bitZp z => .zeroPage z
  | .bitAbs w => .absolute w
  | .bcc off => .relative off
  | .bcs off => .relative off
  | .beq off => .relative off
  | .bmi off => .relative off
  | .bne off => .relative off
  | .bpl off => .relative off
  | .bvc off => .relative off
  | .bvs off => .relative off
  | .clc => .implied
  | .cld => .implied
  | .cli => .implied
  | .clv => .implied
  | .sec => .implied
  | .sed => .implied
  | .sei => .implied
  | .jmpAbs w => .absolute w
  | .jmpInd w => .absoluteIndirect w
  | .jsrAbs w => .absolute w
  | .rts => .implied
  | .brk => .implied
  | .rti => .implied
  | .php => .implied
  | .pha => .implied
  | .plp => .implied
  | .pla => .implied
  | .nop => .implied

/-- The addressing mode of an instruction. -/
def Instr.mode (i : Instr) : Mode := i.operand.mode

/-- The number of operand bytes a mode consumes (30_encoding.md R101). -/
def Mode.operandBytes : Mode → Nat
  | .implied | .accumulator => 0
  | .immediate | .zeroPage | .zeroPageIndexedX | .zeroPageIndexedY | .indirectX | .indirectY | .relative => 1
  | .absolute | .absoluteIndexedX | .absoluteIndexedY | .absoluteIndirect => 2

end Sys2Proof
end

