-- ==== Sys2Proof/Machine/State.lean ====
section
/-! DEFINITION. The machine's state as plain data, why a step can stop, and the state after reset.
The architectural state is A, X, Y, SP, P and PC (10_state.md R30, R43) and what stands behind the bus
(20_memory.md R60, R78); the outputs of the last step (00_scope.md R8) stand beside it (log entry 3). -/

namespace Sys2Proof.Machine

/-- Memory: (address, byte) pairs, addresses strictly rising, no byte equal to what an unlisted address
reads as (`Memory.wf`). The addresses are 0x0000 to 0xFFFF (20_memory.md R60). -/
abbrev Memory := List Host.Cell

/-- An access the bus fails, the core's or another agent's: every access of this kind at this address is reported as
failed, with this report, which the core hands on verbatim (20_memory.md R61, R62; 60_exceptions.md R502, R503; log entry 2). -/
structure BusFailure where
  kind    : AccessKind
  address : Word
  report  : Nat
  deriving DecidableEq, Repr

/-- What stands behind an address: RAM, memory whose writes are ignored, a mirror of RAM at another address, or
something that is no memory and answers as `Config.externalRead` and `Config.externalWrite` say: a device
register, a mapper (20_memory.md R60, R62, R78; 93_implementation_defined.md U9; log entry 2). -/
inductive Backing where
  | ram
  | readOnly
  | redirect (target : Word)
  | external
  deriving DecidableEq, Repr

/-- The addresses from `base` on, `size` of them modulo 65536, and what stands behind them; a mirror's first
address is its target's first. -/
structure BusWindow where
  base    : Word
  size    : Nat
  backing : Backing
  deriving DecidableEq, Repr

/-- The non-fatal stack diagnostics (20_memory.md R66; 60_exceptions.md R504). -/
inductive Diag where
  /-- A push made with SP = 0xFF (R66, code 0x10). -/
  | stackOverflow
  /-- A pop made with SP = 0x00 (R66, code 0x11). -/
  | stackUnderflow
  deriving DecidableEq, Repr

/-- The state: the registers, the bus, and the outputs of the last step. -/
structure State where
  /-- Accumulator A (10_state.md R31). -/
  a : Byte
  /-- Index register X (R32). -/
  x : Byte
  /-- Index register Y (R32). -/
  y : Byte
  /-- Stack pointer SP, an offset into the page 0x0100 to 0x01FF (R34). -/
  sp : Byte
  /-- Status register P, all eight bits stored (R35). -/
  p : Byte
  /-- Program counter PC, the address of the next byte to fetch (R41). -/
  pc : Word
  /-- The memory behind the bus (20_memory.md R78). -/
  mem : Memory
  /-- What stands behind which addresses, the first window that holds an address counting; RAM where none does
  (20_memory.md R60, R78). Empty for the plain-RAM bus. -/
  windows : List BusWindow
  /-- The accesses the bus always fails (20_memory.md R61, R62). Empty for the plain-RAM bus. -/
  busFailures : List BusFailure
  /-- What the bus was asked before `accesses`, newest first: its answers may depend on it (20_memory.md R78). -/
  busHistory : List BusAccess
  /-- Output: the cycle count the last step reported, none before the first and after reset (R610, R613). -/
  cycles : Option Nat
  /-- Output: the stack diagnostics of the last step, in order (20_memory.md R66). -/
  diags : List Diag
  /-- What the bus has been asked since the last step or reset began, in order (20_memory.md R72). -/
  accesses : List BusAccess
  deriving DecidableEq, Repr

/-- What a step that a failed access ended leaves of the bus: memory and the accesses the bus served before it, which are
not undone, and the access it failed (60_exceptions.md R503). The registers are not in it: the spec leaves them
unspecified. -/
structure BusLeft where
  mem      : Memory
  accesses : List BusAccess
  failed   : BusAccess
  deriving DecidableEq, Repr

/-- Why a step stops with a fault (60_exceptions.md R500, R502). -/
inductive Fault where
  /-- Raised by the decode of a step whose opcode byte has no instruction, with the byte, its address and the state the
  step leaves: PC restored, nothing but the opcode read done (R501). The host may go on from that state. The spec's own
  fault; safe: the step has no other outcome. -/
  | decodeFault (opcode : Byte) (address : Word) (left : State)
  /-- Raised by any bus access the bus fails, with the bus's report, verbatim, and what the step leaves of the bus; the
  rest of the state is unspecified (R503). The spec's own fault; safe: the machine stops. -/
  | busFault (failure : BusFailure) (left : BusLeft)
  /-- Raised by the resolver when it is asked for a mode that has no address (30_encoding.md R114, "report
  as an internal error"); no instruction of the opcode map reaches it. Safe: the machine stops. -/
  | illegalMode (mode : Mode)
  deriving DecidableEq, Repr

/-- Why a step is refused. -/
inductive Refusal where
  /-- Raised by exec alone, for an instruction that has no meaning yet. Safe: the machine stops. -/
  | notModelled (mnemonic : String)
  /-- Raised by a session alone, for a step requested before the first reset, or after one that failed (70_reset_and_hazards.md
  R600; 93_implementation_defined.md U14). Safe: the request is not accepted. -/
  | stepBeforeReset
  /-- Raised by a session alone, for a step requested after a BusFault and before the next reset (60_exceptions.md R536;
  93_implementation_defined.md U13). Safe: the request is not accepted. -/
  | stepAfterBusFault
  deriving DecidableEq, Repr

/-- The machine right after reset (70_reset_and_hazards.md R600, R601), over memory that lists nothing and the
plain-RAM bus: PC is the word read at the reset vector, and the two vector reads are all the bus was asked. -/
def State.reset : State :=
  { a := Config.resetValues.a
    x := Config.resetValues.x
    y := Config.resetValues.y
    sp := Config.resetValues.sp
    p := Config.resetValues.p
    pc := Config.unlistedByte ++ Config.unlistedByte
    mem := []
    windows := []
    busFailures := []
    busHistory := []
    cycles := none
    diags := []
    accesses :=
      [ { kind := .read, address := Config.resetVector, value := Config.unlistedByte },
        { kind := .read, address := Config.resetVector + 1, value := Config.unlistedByte } ] }

end Sys2Proof.Machine
end

