-- ==== Sys2Proof/Machine/Ops.lean ====
section
/-! DEFINITION. The named operations every meaning is made of: the register setters, the canonical memory, the
bus accesses, Fetch, Push, Pop, the two-byte reads (20_memory.md), and taking and leaving the software
interrupt (60_exceptions.md R520, R521). An operation that touches the bus answers a value with the next
state, or the fault that ends the step. -/

namespace Sys2Proof.Machine

/-- The three outcomes of a step, at this machine's types. -/
abbrev StepOutcome := Host.Outcome State Fault Refusal

/-! ### Memory in canonical form -/

/-- The byte at an address; an address not listed reads as `Config.unlistedByte` (log entry 1). -/
def Memory.read : Memory → Nat → Byte
  | [], _ => Config.unlistedByte
  | (k, b) :: m, a => if k = a then b else Memory.read m a

/-- Memory with no entry for an address. -/
def Memory.erase : Memory → Nat → Memory
  | [], _ => []
  | (k, b) :: m, a => if k = a then Memory.erase m a else (k, b) :: Memory.erase m a

/-- Memory with an entry put in front of the first higher address. -/
def Memory.insert : Memory → Nat → Byte → Memory
  | [], a, v => [(a, v)]
  | (k, b) :: m, a, v => if a < k then (a, v) :: (k, b) :: m else (k, b) :: Memory.insert m a v

/-- Memory with `v` at `a`: the old entry goes, and a new one comes unless an unlisted address reads so. -/
def Memory.write (m : Memory) (a : Nat) (v : Byte) : Memory :=
  if v = Config.unlistedByte then m.erase a else (m.erase a).insert a v

/-- Addresses from `lo` up, strictly rising, below 65536, and no entry that an unlisted address reads as. -/
def Memory.wfFrom : Nat → Memory → Bool
  | _, [] => true
  | lo, (k, b) :: m => decide (lo ≤ k) && decide (k < 65536) && decide (b ≠ Config.unlistedByte) && Memory.wfFrom (k + 1) m

/-- The canonical form of memory. -/
def Memory.wf (m : Memory) : Bool := Memory.wfFrom 0 m

/-! ### Registers, flags and outputs -/

/-- The four 8-bit registers a register operand can name (10_state.md R31, R32, R34). -/
inductive Reg where
  | a | x | y | sp
  deriving DecidableEq, Repr

def State.setA (s : State) (v : Byte) : State := { s with a := v }
def State.setX (s : State) (v : Byte) : State := { s with x := v }
def State.setY (s : State) (v : Byte) : State := { s with y := v }
def State.setSP (s : State) (v : Byte) : State := { s with sp := v }
def State.setP (s : State) (v : Byte) : State := { s with p := v }
/-- `setPC(addr)`; every u16 is a legal PC (10_state.md R41, R42). -/
def State.setPC (s : State) (w : Word) : State := { s with pc := w }
def State.setMem (s : State) (m : Memory) : State := { s with mem := m }
def State.setCycles (s : State) (n : Option Nat) : State := { s with cycles := n }

/-- `Diag(d)`: append a diagnostic to the step's list (20_memory.md R66). -/
def State.addDiag (s : State) (d : Diag) : State := { s with diags := s.diags ++ [d] }

/-- Append a bus access to the step's list (20_memory.md R72). -/
def State.logAccess (s : State) (b : BusAccess) : State := { s with accesses := s.accesses ++ [b] }

/-- Everything the bus has been asked so far, newest first (20_memory.md R78). -/
def State.asked (s : State) : List BusAccess := s.accesses.reverse ++ s.busHistory

/-- `diags <- []` at the start of a step, and the other outputs with it; the accesses become history, which the
bus remembers (30_encoding.md R110; 20_memory.md R78). -/
def State.clearOutputs (s : State) : State :=
  { s with cycles := none, diags := [], accesses := [], busHistory := s.asked }

/-- `incrementPC`: `PC <- (PC + 1) mod 65536` (10_state.md R41). -/
def State.incrementPC (s : State) : State := s.setPC (s.pc + 1)

/-- `decrementPC`: `PC <- (PC - 1) mod 65536` (10_state.md R41). -/
def State.decrementPC (s : State) : State := s.setPC (s.pc - 1)

/-- Read a register by name. -/
def State.reg (s : State) : Reg → Byte
  | .a => s.a
  | .x => s.x
  | .y => s.y
  | .sp => s.sp

/-- Write a register by name; no register is hardwired (10_state.md R30). -/
def State.setReg (s : State) (r : Reg) (v : Byte) : State :=
  match r with
  | .a => s.setA v
  | .x => s.setX v
  | .y => s.setY v
  | .sp => s.setSP v

/-- A flag of P (10_state.md R33). -/
def State.flag (s : State) (f : Flag) : Bool := getFlag s.p f

/-- `P.f <- v` (10_state.md R33). -/
def State.setFlag (s : State) (f : Flag) (v : Bool) : State := s.setP (Machine.setFlag s.p f v)

/-- `SetNZ(v)` (10_state.md R40). -/
def State.setNZ (s : State) (v : Byte) : State := s.setP (Machine.setNZ s.p v)

/-- The byte of memory at an address: what a read gives where RAM stands (20_memory.md R78). -/
def State.readByte (s : State) (a : Word) : Byte := s.mem.read a.toNat

/-- The state with a byte of memory set (20_memory.md R78). -/
def State.writeByte (s : State) (a : Word) (v : Byte) : State := s.setMem (s.mem.write a.toNat v)

/-! ### The bus -/

/-- The window that holds an address. -/
def BusWindow.holds (w : BusWindow) (a : Word) : Bool := decide ((a - w.base).toNat < w.size)

/-- What stands behind an address; for a mirror, with the address it stands for. -/
def State.behind (s : State) (a : Word) : Backing :=
  match s.windows.find? (fun w => w.holds a) with
  | none => .ram
  | some w =>
    match w.backing with
    | .redirect target => .redirect (target + (a - w.base))
    | b => b

/-- The failure the bus always reports for an access, if it fails it (20_memory.md R61, R62). -/
def State.busFailure (s : State) (k : AccessKind) (a : Word) : Option BusFailure :=
  s.busFailures.find? (fun f => decide (f.kind = k ∧ f.address = a))

/-- `bus.read(a)`, the core's unless another agent's is asked for: the byte the bus answers, or the failure it reports
(20_memory.md R61, R73, R78). -/
def State.busRead (s : State) (a : Word) (k : AccessKind := .read) : Except BusFailure Byte :=
  match s.busFailure k a with
  | some f => .error f
  | none =>
    match s.behind a with
    | .ram | .readOnly => .ok (s.readByte a)
    | .redirect a' => .ok (s.readByte a')
    | .external =>
      match Config.externalRead s.asked k a with
      | .ok v => .ok v
      | .error report => .error ⟨k, a, report⟩

/-- Memory after a write that the bus accepts: stored, ignored, or redirected (20_memory.md R62). -/
def State.stored (s : State) (a : Word) (v : Byte) : Memory :=
  match s.behind a with
  | .ram => s.mem.write a.toNat v
  | .redirect a' => s.mem.write a'.toNat v
  | .readOnly | .external => s.mem

/-- `bus.write(a, v)`, the core's unless another agent's is asked for: memory after it, or the failure the bus reports
(20_memory.md R62, R73, R78). -/
def State.busWrite (s : State) (a : Word) (v : Byte) (k : AccessKind := .write) : Except BusFailure Memory :=
  match s.busFailure k a with
  | some f => .error f
  | none =>
    match s.behind a with
    | .ram | .readOnly | .redirect _ => .ok (s.stored a v)
    | .external =>
      match Config.externalWrite s.asked k a v with
      | none => .ok (s.stored a v)
      | some report => .error ⟨k, a, report⟩

/-- What a step leaves of the bus when the bus fails this access (60_exceptions.md R503). -/
def State.busLeft (s : State) (failed : BusAccess) : BusLeft := ⟨s.mem, s.accesses, failed⟩

/-- `MemRead(addr, 1)`: one bus read (20_memory.md R61). In a failed one no byte moves, and the record of it has 0x00. -/
def memRead (a : Word) (s : State) : Except Fault (Byte × State) :=
  match s.busRead a with
  | .error f => .error (.busFault f (s.busLeft ⟨.read, a, 0x00⟩))
  | .ok v => .ok (v, s.logAccess ⟨.read, a, v⟩)

/-- `MemWrite(addr, 1, v)`: one bus write (20_memory.md R62). -/
def memWrite (a : Word) (v : Byte) (s : State) : Except Fault State :=
  match s.busWrite a v with
  | .error f => .error (.busFault f (s.busLeft ⟨.write, a, v⟩))
  | .ok m => .ok ((s.setMem m).logAccess ⟨.write, a, v⟩)

/-- `Fetch()`: read the byte at PC, then increment PC (20_memory.md R63). -/
def fetch (s : State) : Except Fault (Byte × State) := do
  let (b, s1) ← memRead s.pc s
  return (b, s1.incrementPC)

/-- `Read16(a)`: low byte at `a`, high byte at `(a + 1) mod 65536` (20_memory.md R68). -/
def read16 (a : Word) (s : State) : Except Fault (Word × State) := do
  let (lo, s1) ← memRead a s
  let (hi, s2) ← memRead (a + 1) s1
  return (joinBytes hi lo, s2)

/-- `Read16ZP(z)`: both bytes in the zero page, high byte at `(z + 1) mod 256` (20_memory.md R68). -/
def read16ZP (z : Byte) (s : State) : Except Fault (Word × State) := do
  let (lo, s1) ← memRead (zext z) s
  let (hi, s2) ← memRead (zext (z + 1)) s1
  return (joinBytes hi lo, s2)

/-- `Read16Bug(p)`: high byte at `(p & 0xFF00) | ((p + 1) mod 256)`, in the page of `p` (20_memory.md R68). -/
def read16Bug (p : Word) (s : State) : Except Fault (Word × State) := do
  let (lo, s1) ← memRead p s
  let (hi, s2) ← memRead (joinBytes (hiByte p) (loByte p + 1)) s1
  return (joinBytes hi lo, s2)

/-! ### The stack -/

/-- The address SP stands for: `0x0100 + SP` (20_memory.md R64). -/
def stackAddress (sp : Byte) : Word := Config.stackBase + zext sp

/-- `Push(v)`: a diagnostic at SP = 0xFF, write at `0x0100 + SP`, then increment SP (20_memory.md R64, R66). -/
def push (v : Byte) (s : State) : Except Fault State := do
  let s1 := if s.sp = 0xFF#8 then s.addDiag .stackOverflow else s
  let s2 ← memWrite (stackAddress s1.sp) v s1
  return s2.setSP (s2.sp + 1)

/-- `Pop()`: a diagnostic at SP = 0x00, decrement SP, then read at `0x0100 + SP` (20_memory.md R65, R66). -/
def pop (s : State) : Except Fault (Byte × State) :=
  let s1 := if s.sp = 0x00#8 then s.addDiag .stackUnderflow else s
  let s2 := s1.setSP (s1.sp - 1)
  memRead (stackAddress s2.sp) s2

/-- Push a word, high byte first (49_jumps_stack.md R381, R384). -/
def pushWord (w : Word) (s : State) : Except Fault State := do
  let s1 ← push (hiByte w) s
  push (loByte w) s1

/-- Pop a word, low byte first (49_jumps_stack.md R382, R385). -/
def popWord (s : State) : Except Fault (Word × State) := do
  let (lo, s1) ← pop s
  let (hi, s2) ← pop s1
  return (joinBytes hi lo, s2)

/-! ### The trap -/

/-- Trap entry (60_exceptions.md R520; 49_jumps_stack.md R384): save `ret`, high byte first, then P with
bits 4 and 5 set, on the stack; set I; go to the address in the vector. -/
def takeTrap (vector ret : Word) (s : State) : Except Fault State := do
  let s1 ← pushWord ret s
  let s2 ← push (pushedP s1.p) s1
  let s3 := s2.setFlag .i true
  let (target, s4) ← read16 vector s3
  return s4.setPC target

/-- Trap return (60_exceptions.md R521; 49_jumps_stack.md R385): pop P, all eight bits, then PC, low byte first. -/
def returnFromTrap (s : State) : Except Fault State := do
  let (p, s1) ← pop s
  let (target, s2) ← popWord (s1.setP p)
  return s2.setPC target

/-! ### Outcomes -/

/-- The outcome of a meaning: the next state, or the fault that ended the step (60_exceptions.md R500). -/
def finish (r : Except Fault State) : StepOutcome :=
  match r with
  | .ok s => .next s
  | .error f => .fault f

/-- The cause codes of the faults and diagnostics (60_exceptions.md R502); the spec gives none to the
internal error of R114. -/
def Fault.code : Fault → Option Nat
  | .decodeFault _ _ _ => some 0x01
  | .busFault _ _ => some 0x02
  | .illegalMode _ => none

def Diag.code : Diag → Nat
  | .stackOverflow => 0x10
  | .stackUnderflow => 0x11

end Sys2Proof.Machine
end

