-- ==== Sys2Proof/Machine/Operands.lean ====
section
/-! DEFINITION. The addressing-mode resolver (30_encoding.md R120 to R122): `EA(mode)` and `Operand(mode)`.
The operand bytes have been fetched, all of them before any other access of the instruction (20_memory.md
R76), and stand in the operand; the reads of pointer bytes are made here, in the order of R120. -/

namespace Sys2Proof.Machine

/-- An effective address, and whether indexing left the page of the base address (30_encoding.md R122). -/
structure Resolved where
  ea      : Word
  crossed : Bool
  deriving DecidableEq, Repr

/-- `base + index` modulo 65536, with the page-cross indication (30_encoding.md R120, R122). -/
def indexed (base : Word) (index : Byte) : Resolved :=
  let ea := base + zext index
  { ea := ea, crossed := hiByte base != hiByte ea }

/-- `EA(mode)` (30_encoding.md R120). A mode with no address is an internal error (R114). -/
def resolveAddress (o : Operand) (s : State) : Except Fault (Resolved × State) :=
  match o with
  | .zeroPage z => .ok (⟨zext z, false⟩, s)
  | .zeroPageIndexedX z => .ok (⟨zext (z + s.x), false⟩, s)
  | .zeroPageIndexedY z => .ok (⟨zext (z + s.y), false⟩, s)
  | .absolute w => .ok (⟨w, false⟩, s)
  | .absoluteIndexedX w => .ok (indexed w s.x, s)
  | .absoluteIndexedY w => .ok (indexed w s.y, s)
  | .indirectX z => do
    let (w, s1) ← read16ZP (z + s.x) s
    return (⟨w, false⟩, s1)
  | .indirectY z => do
    let (base, s1) ← read16ZP z s
    return (indexed base s1.y, s1)
  | .absoluteIndirect w => do
    let (target, s1) ← read16Bug w s
    return (⟨target, false⟩, s1)
  | .implied => .error (.illegalMode .implied)
  | .accumulator => .error (.illegalMode .accumulator)
  | .immediate _ => .error (.illegalMode .immediate)
  | .relative _ => .error (.illegalMode .relative)

/-- An operand value, with the page-cross indication of its address. -/
structure OperandValue where
  value   : Byte
  crossed : Bool
  deriving DecidableEq, Repr

/-- `Operand(mode)`: Immediate is the fetched byte; every other mode reads the bus at its address
(30_encoding.md R121). -/
def resolveOperand (o : Operand) (s : State) : Except Fault (OperandValue × State) :=
  match o with
  | .immediate v => .ok (⟨v, false⟩, s)
  | o => do
    let (r, s1) ← resolveAddress o s
    let (v, s2) ← memRead r.ea s1
    return (⟨v, r.crossed⟩, s2)

end Sys2Proof.Machine
end

