-- ==== Sys2Proof/Machine/Timing.lean ====
section
/-! DEFINITION. The cycle count each completed step reports (70_reset_and_hazards.md R610 to R613): an output
that no rule reads. -/

namespace Sys2Proof.Machine

/-- The base cycle count of the table of R610; none where the instruction has no such mode. -/
def baseCycles : Mnemonic → Mode → Option Nat
  | .lda, m | .adc, m | .sbc, m | .and, m | .ora, m | .eor, m | .cmp, m =>
    match m with
    | .immediate => some 2
    | .zeroPage => some 3
    | .zeroPageIndexedX | .absolute | .absoluteIndexedX | .absoluteIndexedY => some 4
    | .indirectX => some 6
    | .indirectY => some 5
    | _ => none
  | .ldx, m =>
    match m with
    | .immediate => some 2
    | .zeroPage => some 3
    | .zeroPageIndexedY | .absolute | .absoluteIndexedY => some 4
    | _ => none
  | .ldy, m =>
    match m with
    | .immediate => some 2
    | .zeroPage => some 3
    | .zeroPageIndexedX | .absolute | .absoluteIndexedX => some 4
    | _ => none
  | .sta, m =>
    match m with
    | .zeroPage => some 3
    | .zeroPageIndexedX | .absolute => some 4
    | .absoluteIndexedX | .absoluteIndexedY => some 5
    | .indirectX | .indirectY => some 6
    | _ => none
  | .stx, m =>
    match m with
    | .zeroPage => some 3
    | .zeroPageIndexedY | .absolute => some 4
    | _ => none
  | .sty, m =>
    match m with
    | .zeroPage => some 3
    | .zeroPageIndexedX | .absolute => some 4
    | _ => none
  | .inc, m | .dec, m =>
    match m with
    | .zeroPage => some 5
    | .zeroPageIndexedX | .absolute => some 6
    | .absoluteIndexedX => some 7
    | _ => none
  | .asl, m | .lsr, m | .rol, m | .ror, m =>
    match m with
    | .accumulator => some 2
    | .zeroPage => some 5
    | .zeroPageIndexedX | .absolute => some 6
    | .absoluteIndexedX => some 7
    | _ => none
  | .cpx, m | .cpy, m =>
    match m with
    | .immediate => some 2
    | .zeroPage => some 3
    | .absolute => some 4
    | _ => none
  | .bit, m =>
    match m with
    | .zeroPage => some 3
    | .absolute => some 4
    | _ => none
  | .bcc, m | .bcs, m | .beq, m | .bmi, m | .bne, m | .bpl, m | .bvc, m | .bvs, m =>
    match m with
    | .relative => some 2
    | _ => none
  | .jmp, m =>
    match m with
    | .absolute => some 3
    | .absoluteIndirect => some 5
    | _ => none
  | .jsr, m =>
    match m with
    | .absolute => some 6
    | _ => none
  | .tax, m | .tay, m | .tsx, m | .txa, m | .txs, m | .tya, m | .inx, m | .iny, m | .dex, m | .dey, m
  | .clc, m | .cld, m | .cli, m | .clv, m | .sec, m | .sed, m | .sei, m | .nop, m =>
    match m with
    | .implied => some 2
    | _ => none
  | .php, m | .pha, m =>
    match m with
    | .implied => some 3
    | _ => none
  | .plp, m | .pla, m =>
    match m with
    | .implied => some 4
    | _ => none
  | .rts, m | .rti, m =>
    match m with
    | .implied => some 6
    | _ => none
  | .brk, m =>
    match m with
    | .implied => some 7
    | _ => none

/-- The entries of R610's table marked `+`: the read instructions in the modes that can cross a page (R611). -/
def pageCrossCosts : Mnemonic → Mode → Bool
  | .lda, m | .adc, m | .sbc, m | .and, m | .ora, m | .eor, m | .cmp, m =>
    m == .absoluteIndexedX || m == .absoluteIndexedY || m == .indirectY
  | .ldx, m => m == .absoluteIndexedY
  | .ldy, m => m == .absoluteIndexedX
  | _, _ => false

/-- The page-cross increment (70_reset_and_hazards.md R611). -/
def pageCrossExtra (mn : Mnemonic) (mode : Mode) (crossed : Bool) : Nat :=
  if pageCrossCosts mn mode && crossed then 1 else 0

/-- The branch increments: 1 taken, 1 more if the target's page is not that of the PC after the
displacement fetch (70_reset_and_hazards.md R612). -/
def branchExtra (pcAfter target : Word) (taken : Bool) : Nat :=
  if taken then (if hiByte target = hiByte pcAfter then 1 else 2) else 0

/-- Report the cycle count of a completed instruction: base plus increments (70_reset_and_hazards.md R610). -/
def State.charge (s : State) (mn : Mnemonic) (mode : Mode) (extra : Nat) : State :=
  s.setCycles ((baseCycles mn mode).map (· + extra))

end Sys2Proof.Machine
end

