-- ==== Sys2Proof/Machine/Arithmetic.lean ====
section
/-! DEFINITION. Arithmetic (42_arithmetic.md): the shared operations of the family, then one meaning per instruction. -/

namespace Sys2Proof.Machine

/-- `P.D == 1 and DECIMAL_ENABLED` (42_arithmetic.md R241, R242; 00_scope.md R11). -/
def State.decimalMode (s : State) : Bool := s.flag .d && Config.decimalEnabled

/-- Write an arithmetic result to A and its flags C, V, N, Z to P (42_arithmetic.md R241, R242). -/
def State.setArith (s : State) (r : AluResult) : State := (s.setA r.result).setP (setArithFlags s.p r)

/-- ADC: `m <- Operand(mode)`, A plus m plus C (42_arithmetic.md R241). -/
def addWithCarry (mn : Mnemonic) (o : Operand) (s : State) : Except Fault State := do
  let (m, s1) ← resolveOperand o s
  let r := adcResult s1.decimalMode s1.a m.value (s1.flag .c)
  return (s1.setArith r).charge mn o.mode (pageCrossExtra mn o.mode m.crossed)

/-- SBC: `m <- Operand(mode)`, A minus m minus the borrow, C the inverted borrow (42_arithmetic.md R242). -/
def subtractWithBorrow (mn : Mnemonic) (o : Operand) (s : State) : Except Fault State := do
  let (m, s1) ← resolveOperand o s
  let r := sbcResult s1.decimalMode s1.a m.value (s1.flag .c)
  return (s1.setArith r).charge mn o.mode (pageCrossExtra mn o.mode m.crossed)

/-- `ADC #$nn`, 0x69 (R241). -/
def execAdcImm (v : Byte) (s : State) : StepOutcome := finish (addWithCarry .adc (.immediate v) s)

/-- `ADC $nn`, 0x65 (R241). -/
def execAdcZp (z : Byte) (s : State) : StepOutcome := finish (addWithCarry .adc (.zeroPage z) s)

/-- `ADC $nn,X`, 0x75 (R241). -/
def execAdcZpX (z : Byte) (s : State) : StepOutcome := finish (addWithCarry .adc (.zeroPageIndexedX z) s)

/-- `ADC $nnnn`, 0x6D (R241). -/
def execAdcAbs (w : Word) (s : State) : StepOutcome := finish (addWithCarry .adc (.absolute w) s)

/-- `ADC $nnnn,X`, 0x7D (R241). -/
def execAdcAbsX (w : Word) (s : State) : StepOutcome := finish (addWithCarry .adc (.absoluteIndexedX w) s)

/-- `ADC $nnnn,Y`, 0x79 (R241). -/
def execAdcAbsY (w : Word) (s : State) : StepOutcome := finish (addWithCarry .adc (.absoluteIndexedY w) s)

/-- `ADC ($nn,X)`, 0x61 (R241). -/
def execAdcIndX (z : Byte) (s : State) : StepOutcome := finish (addWithCarry .adc (.indirectX z) s)

/-- `ADC ($nn),Y`, 0x71 (R241). -/
def execAdcIndY (z : Byte) (s : State) : StepOutcome := finish (addWithCarry .adc (.indirectY z) s)

/-- `SBC #$nn`, 0xE9 (R242). -/
def execSbcImm (v : Byte) (s : State) : StepOutcome := finish (subtractWithBorrow .sbc (.immediate v) s)

/-- `SBC $nn`, 0xE5 (R242). -/
def execSbcZp (z : Byte) (s : State) : StepOutcome := finish (subtractWithBorrow .sbc (.zeroPage z) s)

/-- `SBC $nn,X`, 0xF5 (R242). -/
def execSbcZpX (z : Byte) (s : State) : StepOutcome := finish (subtractWithBorrow .sbc (.zeroPageIndexedX z) s)

/-- `SBC $nnnn`, 0xED (R242). -/
def execSbcAbs (w : Word) (s : State) : StepOutcome := finish (subtractWithBorrow .sbc (.absolute w) s)

/-- `SBC $nnnn,X`, 0xFD (R242). -/
def execSbcAbsX (w : Word) (s : State) : StepOutcome := finish (subtractWithBorrow .sbc (.absoluteIndexedX w) s)

/-- `SBC $nnnn,Y`, 0xF9 (R242). -/
def execSbcAbsY (w : Word) (s : State) : StepOutcome := finish (subtractWithBorrow .sbc (.absoluteIndexedY w) s)

/-- `SBC ($nn,X)`, 0xE1 (R242). -/
def execSbcIndX (z : Byte) (s : State) : StepOutcome := finish (subtractWithBorrow .sbc (.indirectX z) s)

/-- `SBC ($nn),Y`, 0xF1 (R242). -/
def execSbcIndY (z : Byte) (s : State) : StepOutcome := finish (subtractWithBorrow .sbc (.indirectY z) s)

end Sys2Proof.Machine
end

