-- ==== Sys2Proof/Machine/Branches.lean ====
section
/-! DEFINITION. Conditional branches (47_branches.md): the shared operations of the family, then one meaning per instruction. -/

namespace Sys2Proof.Machine

/-- `Branch(cond)` after the displacement byte has been fetched: `PC <- (PC + sext(off)) mod 65536` if the
flag has the value tested (47_branches.md R340). -/
def branch (mn : Mnemonic) (f : Flag) (val : Bool) (off : Byte) (s : State) : Except Fault State :=
  let target := s.pc + sext off
  let taken := s.flag f == val
  .ok ((if taken then s.setPC target else s).charge mn .relative (branchExtra s.pc target taken))

/-- `BCC label (signed $nn)`, 0x90 (R341). -/
def execBcc (off : Byte) (s : State) : StepOutcome := finish (branch .bcc .c false off s)

/-- `BCS label (signed $nn)`, 0xB0 (R342). -/
def execBcs (off : Byte) (s : State) : StepOutcome := finish (branch .bcs .c true off s)

/-- `BEQ label (signed $nn)`, 0xF0 (R343). -/
def execBeq (off : Byte) (s : State) : StepOutcome := finish (branch .beq .z true off s)

/-- `BMI label (signed $nn)`, 0x30 (R344). -/
def execBmi (off : Byte) (s : State) : StepOutcome := finish (branch .bmi .n true off s)

/-- `BNE label (signed $nn)`, 0xD0 (R345). -/
def execBne (off : Byte) (s : State) : StepOutcome := finish (branch .bne .z false off s)

/-- `BPL label (signed $nn)`, 0x10 (R346). -/
def execBpl (off : Byte) (s : State) : StepOutcome := finish (branch .bpl .n false off s)

/-- `BVC label (signed $nn)`, 0x50 (R347). -/
def execBvc (off : Byte) (s : State) : StepOutcome := finish (branch .bvc .v false off s)

/-- `BVS label (signed $nn)`, 0x70 (R348). -/
def execBvs (off : Byte) (s : State) : StepOutcome := finish (branch .bvs .v true off s)

end Sys2Proof.Machine
end

