-- ==== Sys2Proof/Machine/CompareBit.lean ====
section
/-! DEFINITION. Compare and bit test (46_compare_bit.md): the shared operations of the family, then one meaning per instruction. -/

namespace Sys2Proof.Machine

/-- `m <- Operand(mode); Compare(r, m)` (46_compare_bit.md R320). -/
def compareReg (mn : Mnemonic) (r : Reg) (o : Operand) (s : State) : Except Fault State := do
  let (m, s1) ← resolveOperand o s
  return (s1.setP (compareFlags s1.p (s1.reg r) m.value)).charge mn o.mode (pageCrossExtra mn o.mode m.crossed)

/-- BIT (46_compare_bit.md R324). -/
def bitTest (mn : Mnemonic) (o : Operand) (s : State) : Except Fault State := do
  let (m, s1) ← resolveOperand o s
  return (s1.setP (bitFlags s1.p s1.a m.value)).charge mn o.mode (pageCrossExtra mn o.mode m.crossed)

/-- `CMP #$nn`, 0xC9 (R321). -/
def execCmpImm (v : Byte) (s : State) : StepOutcome := finish (compareReg .cmp .a (.immediate v) s)

/-- `CMP $nn`, 0xC5 (R321). -/
def execCmpZp (z : Byte) (s : State) : StepOutcome := finish (compareReg .cmp .a (.zeroPage z) s)

/-- `CMP $nn,X`, 0xD5 (R321). -/
def execCmpZpX (z : Byte) (s : State) : StepOutcome := finish (compareReg .cmp .a (.zeroPageIndexedX z) s)

/-- `CMP $nnnn`, 0xCD (R321). -/
def execCmpAbs (w : Word) (s : State) : StepOutcome := finish (compareReg .cmp .a (.absolute w) s)

/-- `CMP $nnnn,X`, 0xDD (R321). -/
def execCmpAbsX (w : Word) (s : State) : StepOutcome := finish (compareReg .cmp .a (.absoluteIndexedX w) s)

/-- `CMP $nnnn,Y`, 0xD9 (R321). -/
def execCmpAbsY (w : Word) (s : State) : StepOutcome := finish (compareReg .cmp .a (.absoluteIndexedY w) s)

/-- `CMP ($nn,X)`, 0xC1 (R321). -/
def execCmpIndX (z : Byte) (s : State) : StepOutcome := finish (compareReg .cmp .a (.indirectX z) s)

/-- `CMP ($nn),Y`, 0xD1 (R321). -/
def execCmpIndY (z : Byte) (s : State) : StepOutcome := finish (compareReg .cmp .a (.indirectY z) s)

/-- `CPX #$nn`, 0xE0 (R322). -/
def execCpxImm (v : Byte) (s : State) : StepOutcome := finish (compareReg .cpx .x (.immediate v) s)

/-- `CPX $nn`, 0xE4 (R322). -/
def execCpxZp (z : Byte) (s : State) : StepOutcome := finish (compareReg .cpx .x (.zeroPage z) s)

/-- `CPX $nnnn`, 0xEC (R322). -/
def execCpxAbs (w : Word) (s : State) : StepOutcome := finish (compareReg .cpx .x (.absolute w) s)

/-- `CPY #$nn`, 0xC0 (R323). -/
def execCpyImm (v : Byte) (s : State) : StepOutcome := finish (compareReg .cpy .y (.immediate v) s)

/-- `CPY $nn`, 0xC4 (R323). -/
def execCpyZp (z : Byte) (s : State) : StepOutcome := finish (compareReg .cpy .y (.zeroPage z) s)

/-- `CPY $nnnn`, 0xCC (R323). -/
def execCpyAbs (w : Word) (s : State) : StepOutcome := finish (compareReg .cpy .y (.absolute w) s)

/-- `BIT $nn`, 0x24 (R324). -/
def execBitZp (z : Byte) (s : State) : StepOutcome := finish (bitTest .bit (.zeroPage z) s)

/-- `BIT $nnnn`, 0x2C (R324). -/
def execBitAbs (w : Word) (s : State) : StepOutcome := finish (bitTest .bit (.absolute w) s)

end Sys2Proof.Machine
end

