-- ==== Sys2Proof/Machine/FlagControl.lean ====
section
/-! DEFINITION. Status-flag control (48_flag_control.md): the shared operations of the family, then one meaning per instruction. -/

namespace Sys2Proof.Machine

/-- `P.f <- v`, and no other bit of P (48_flag_control.md R360). -/
def flagControl (mn : Mnemonic) (f : Flag) (val : Bool) (s : State) : Except Fault State :=
  .ok ((s.setFlag f val).charge mn .implied 0)

/-- `CLC`, 0x18 (R361). -/
def execClc (s : State) : StepOutcome := finish (flagControl .clc .c false s)

/-- `CLD`, 0xD8 (R362). -/
def execCld (s : State) : StepOutcome := finish (flagControl .cld .d false s)

/-- `CLI`, 0x58 (R363). -/
def execCli (s : State) : StepOutcome := finish (flagControl .cli .i false s)

/-- `CLV`, 0xB8 (R364). -/
def execClv (s : State) : StepOutcome := finish (flagControl .clv .v false s)

/-- `SEC`, 0x38 (R365). -/
def execSec (s : State) : StepOutcome := finish (flagControl .sec .c true s)

/-- `SED`, 0xF8 (R366). -/
def execSed (s : State) : StepOutcome := finish (flagControl .sed .d true s)

/-- `SEI`, 0x78 (R367). -/
def execSei (s : State) : StepOutcome := finish (flagControl .sei .i true s)

end Sys2Proof.Machine
end

