-- ==== Sys2Proof/Machine/IncDec.lean ====
section
/-! DEFINITION. Increment and decrement (43_incdec.md): the shared operations of the family, then one meaning per instruction. -/

namespace Sys2Proof.Machine

/-- `ea <- EA(mode); v <- MemRead(ea, 1); r <- f(v); MemWrite(ea, 1, r); SetNZ(r)`: one read and one write
of the effective address (43_incdec.md R260; 30_encoding.md R124). -/
def modifyMemory (mn : Mnemonic) (f : Byte → Byte) (o : Operand) (s : State) : Except Fault State := do
  let (t, s1) ← resolveAddress o s
  let (v, s2) ← memRead t.ea s1
  let s3 ← memWrite t.ea (f v) s2
  return (s3.setNZ (f v)).charge mn o.mode (pageCrossExtra mn o.mode t.crossed)

/-- `r <- f(r); SetNZ(r)` for a register (43_incdec.md R260). -/
def modifyReg (mn : Mnemonic) (f : Byte → Byte) (r : Reg) (s : State) : Except Fault State :=
  let v := f (s.reg r)
  .ok (((s.setReg r v).setNZ v).charge mn .implied 0)

/-- `(v + 1) mod 256` (43_incdec.md R261). -/
def incByte (v : Byte) : Byte := v + 1

/-- `(v - 1) mod 256` (43_incdec.md R262). -/
def decByte (v : Byte) : Byte := v - 1

/-- `INC $nn`, 0xE6 (R261). -/
def execIncZp (z : Byte) (s : State) : StepOutcome := finish (modifyMemory .inc incByte (.zeroPage z) s)

/-- `INC $nn,X`, 0xF6 (R261). -/
def execIncZpX (z : Byte) (s : State) : StepOutcome := finish (modifyMemory .inc incByte (.zeroPageIndexedX z) s)

/-- `INC $nnnn`, 0xEE (R261). -/
def execIncAbs (w : Word) (s : State) : StepOutcome := finish (modifyMemory .inc incByte (.absolute w) s)

/-- `INC $nnnn,X`, 0xFE (R261). -/
def execIncAbsX (w : Word) (s : State) : StepOutcome := finish (modifyMemory .inc incByte (.absoluteIndexedX w) s)

/-- `DEC $nn`, 0xC6 (R262). -/
def execDecZp (z : Byte) (s : State) : StepOutcome := finish (modifyMemory .dec decByte (.zeroPage z) s)

/-- `DEC $nn,X`, 0xD6 (R262). -/
def execDecZpX (z : Byte) (s : State) : StepOutcome := finish (modifyMemory .dec decByte (.zeroPageIndexedX z) s)

/-- `DEC $nnnn`, 0xCE (R262). -/
def execDecAbs (w : Word) (s : State) : StepOutcome := finish (modifyMemory .dec decByte (.absolute w) s)

/-- `DEC $nnnn,X`, 0xDE (R262). -/
def execDecAbsX (w : Word) (s : State) : StepOutcome := finish (modifyMemory .dec decByte (.absoluteIndexedX w) s)

/-- `INX`, 0xE8 (R263). -/
def execInx (s : State) : StepOutcome := finish (modifyReg .inx incByte .x s)

/-- `INY`, 0xC8 (R264). -/
def execIny (s : State) : StepOutcome := finish (modifyReg .iny incByte .y s)

/-- `DEX`, 0xCA (R265). -/
def execDex (s : State) : StepOutcome := finish (modifyReg .dex decByte .x s)

/-- `DEY`, 0x88 (R266). -/
def execDey (s : State) : StepOutcome := finish (modifyReg .dey decByte .y s)

end Sys2Proof.Machine
end

