-- ==== Sys2Proof/Machine/JumpsStack.lean ====
section
/-! DEFINITION. Jumps, subroutines, stack, software interrupt, no-op (49_jumps_stack.md): the shared operations of the family, then one meaning per instruction. -/

namespace Sys2Proof.Machine

/-- `t <- EA(mode); PC <- t` (49_jumps_stack.md R380). -/
def jump (mn : Mnemonic) (o : Operand) (s : State) : Except Fault State := do
  let (t, s1) ← resolveAddress o s
  return (s1.setPC t.ea).charge mn o.mode 0

/-- JSR: push `(PC - 1) mod 65536`, high byte first, then jump; both target bytes were fetched before the
first push (49_jumps_stack.md R381). -/
def jumpSubroutine (mn : Mnemonic) (o : Operand) (s : State) : Except Fault State := do
  let (t, s1) ← resolveAddress o s
  let s2 ← pushWord s1.decrementPC.pc s1
  return (s2.setPC t.ea).charge mn o.mode 0

/-- RTS: pop a word, low byte first, and go to the address after it (49_jumps_stack.md R382). -/
def returnSubroutine (mn : Mnemonic) (s : State) : Except Fault State := do
  let (w, s1) ← popWord s
  return ((s1.setPC w).incrementPC).charge mn .implied 0

/-- BRK: the trap through 0xFFFE with the PC after the opcode fetch saved (49_jumps_stack.md R384). -/
def softwareInterrupt (mn : Mnemonic) (s : State) : Except Fault State := do
  let s1 ← takeTrap Config.brkVector s.pc s
  return s1.charge mn .implied 0

/-- RTI (49_jumps_stack.md R385). -/
def returnInterrupt (mn : Mnemonic) (s : State) : Except Fault State := do
  let s1 ← returnFromTrap s
  return s1.charge mn .implied 0

/-- `Push(v)` (49_jumps_stack.md R386, R387). -/
def pushByte (mn : Mnemonic) (v : Byte) (s : State) : Except Fault State := do
  let s1 ← push v s
  return s1.charge mn .implied 0

/-- `P <- Pop()`, all eight bits (49_jumps_stack.md R388). -/
def pullStatus (mn : Mnemonic) (s : State) : Except Fault State := do
  let (v, s1) ← pop s
  return (s1.setP v).charge mn .implied 0

/-- `A <- Pop(); SetNZ(A)` (49_jumps_stack.md R389). -/
def pullAccumulator (mn : Mnemonic) (s : State) : Except Fault State := do
  let (v, s1) ← pop s
  return ((s1.setA v).setNZ v).charge mn .implied 0

/-- Nothing after the opcode fetch (49_jumps_stack.md R390). -/
def noOperation (mn : Mnemonic) (s : State) : Except Fault State := .ok (s.charge mn .implied 0)

/-- `JMP $nnnn`, 0x4C (R380). -/
def execJmpAbs (w : Word) (s : State) : StepOutcome := finish (jump .jmp (.absolute w) s)

/-- `JMP ($nnnn)`, 0x6C (R380). -/
def execJmpInd (w : Word) (s : State) : StepOutcome := finish (jump .jmp (.absoluteIndirect w) s)

/-- `JSR $nnnn`, 0x20 (R381). -/
def execJsrAbs (w : Word) (s : State) : StepOutcome := finish (jumpSubroutine .jsr (.absolute w) s)

/-- `RTS`, 0x60 (R382). -/
def execRts (s : State) : StepOutcome := finish (returnSubroutine .rts s)

/-- `BRK`, 0x00 (R384). -/
def execBrk (s : State) : StepOutcome := finish (softwareInterrupt .brk s)

/-- `RTI`, 0x40 (R385). -/
def execRti (s : State) : StepOutcome := finish (returnInterrupt .rti s)

/-- `PHP`, 0x08 (R386). -/
def execPhp (s : State) : StepOutcome := finish (pushByte .php (pushedP s.p) s)

/-- `PHA`, 0x48 (R387). -/
def execPha (s : State) : StepOutcome := finish (pushByte .pha s.a s)

/-- `PLP`, 0x28 (R388). -/
def execPlp (s : State) : StepOutcome := finish (pullStatus .plp s)

/-- `PLA`, 0x68 (R389). -/
def execPla (s : State) : StepOutcome := finish (pullAccumulator .pla s)

/-- `NOP`, 0xEA (R390). -/
def execNop (s : State) : StepOutcome := finish (noOperation .nop s)

end Sys2Proof.Machine
end

