-- ==== Sys2Proof/Machine/LoadsStores.lean ====
section
/-! DEFINITION. Loads and stores (40_loads_stores.md): the shared operations of the family, then one meaning per instruction. -/

namespace Sys2Proof.Machine

/-- `v <- Operand(mode); r <- v; SetNZ(v)`: N and Z from the loaded register (40_loads_stores.md R200). -/
def loadReg (mn : Mnemonic) (r : Reg) (o : Operand) (s : State) : Except Fault State := do
  let (m, s1) ← resolveOperand o s
  return ((s1.setReg r m.value).setNZ m.value).charge mn o.mode (pageCrossExtra mn o.mode m.crossed)

/-- `ea <- EA(mode); MemWrite(ea, 1, r)`: no read of `ea` (40_loads_stores.md R200; 30_encoding.md R124). -/
def storeReg (mn : Mnemonic) (r : Reg) (o : Operand) (s : State) : Except Fault State := do
  let (t, s1) ← resolveAddress o s
  let s2 ← memWrite t.ea (s1.reg r) s1
  return s2.charge mn o.mode (pageCrossExtra mn o.mode t.crossed)

/-- `LDA #$nn`, 0xA9 (R201). -/
def execLdaImm (v : Byte) (s : State) : StepOutcome := finish (loadReg .lda .a (.immediate v) s)

/-- `LDA $nn`, 0xA5 (R201). -/
def execLdaZp (z : Byte) (s : State) : StepOutcome := finish (loadReg .lda .a (.zeroPage z) s)

/-- `LDA $nn,X`, 0xB5 (R201). -/
def execLdaZpX (z : Byte) (s : State) : StepOutcome := finish (loadReg .lda .a (.zeroPageIndexedX z) s)

/-- `LDA $nnnn`, 0xAD (R201). -/
def execLdaAbs (w : Word) (s : State) : StepOutcome := finish (loadReg .lda .a (.absolute w) s)

/-- `LDA $nnnn,X`, 0xBD (R201). -/
def execLdaAbsX (w : Word) (s : State) : StepOutcome := finish (loadReg .lda .a (.absoluteIndexedX w) s)

/-- `LDA $nnnn,Y`, 0xB9 (R201). -/
def execLdaAbsY (w : Word) (s : State) : StepOutcome := finish (loadReg .lda .a (.absoluteIndexedY w) s)

/-- `LDA ($nn,X)`, 0xA1 (R201). -/
def execLdaIndX (z : Byte) (s : State) : StepOutcome := finish (loadReg .lda .a (.indirectX z) s)

/-- `LDA ($nn),Y`, 0xB1 (R201). -/
def execLdaIndY (z : Byte) (s : State) : StepOutcome := finish (loadReg .lda .a (.indirectY z) s)

/-- `LDX #$nn`, 0xA2 (R202). -/
def execLdxImm (v : Byte) (s : State) : StepOutcome := finish (loadReg .ldx .x (.immediate v) s)

/-- `LDX $nn`, 0xA6 (R202). -/
def execLdxZp (z : Byte) (s : State) : StepOutcome := finish (loadReg .ldx .x (.zeroPage z) s)

/-- `LDX $nn,Y`, 0xB6 (R202). -/
def execLdxZpY (z : Byte) (s : State) : StepOutcome := finish (loadReg .ldx .x (.zeroPageIndexedY z) s)

/-- `LDX $nnnn`, 0xAE (R202). -/
def execLdxAbs (w : Word) (s : State) : StepOutcome := finish (loadReg .ldx .x (.absolute w) s)

/-- `LDX $nnnn,Y`, 0xBE (R202). -/
def execLdxAbsY (w : Word) (s : State) : StepOutcome := finish (loadReg .ldx .x (.absoluteIndexedY w) s)

/-- `LDY #$nn`, 0xA0 (R203). -/
def execLdyImm (v : Byte) (s : State) : StepOutcome := finish (loadReg .ldy .y (.immediate v) s)

/-- `LDY $nn`, 0xA4 (R203). -/
def execLdyZp (z : Byte) (s : State) : StepOutcome := finish (loadReg .ldy .y (.zeroPage z) s)

/-- `LDY $nn,X`, 0xB4 (R203). -/
def execLdyZpX (z : Byte) (s : State) : StepOutcome := finish (loadReg .ldy .y (.zeroPageIndexedX z) s)

/-- `LDY $nnnn`, 0xAC (R203). -/
def execLdyAbs (w : Word) (s : State) : StepOutcome := finish (loadReg .ldy .y (.absolute w) s)

/-- `LDY $nnnn,X`, 0xBC (R203). -/
def execLdyAbsX (w : Word) (s : State) : StepOutcome := finish (loadReg .ldy .y (.absoluteIndexedX w) s)

/-- `STA $nn`, 0x85 (R204). -/
def execStaZp (z : Byte) (s : State) : StepOutcome := finish (storeReg .sta .a (.zeroPage z) s)

/-- `STA $nn,X`, 0x95 (R204). -/
def execStaZpX (z : Byte) (s : State) : StepOutcome := finish (storeReg .sta .a (.zeroPageIndexedX z) s)

/-- `STA $nnnn`, 0x8D (R204). -/
def execStaAbs (w : Word) (s : State) : StepOutcome := finish (storeReg .sta .a (.absolute w) s)

/-- `STA $nnnn,X`, 0x9D (R204). -/
def execStaAbsX (w : Word) (s : State) : StepOutcome := finish (storeReg .sta .a (.absoluteIndexedX w) s)

/-- `STA $nnnn,Y`, 0x99 (R204). -/
def execStaAbsY (w : Word) (s : State) : StepOutcome := finish (storeReg .sta .a (.absoluteIndexedY w) s)

/-- `STA ($nn,X)`, 0x81 (R204). -/
def execStaIndX (z : Byte) (s : State) : StepOutcome := finish (storeReg .sta .a (.indirectX z) s)

/-- `STA ($nn),Y`, 0x91 (R204). -/
def execStaIndY (z : Byte) (s : State) : StepOutcome := finish (storeReg .sta .a (.indirectY z) s)

/-- `STX $nn`, 0x86 (R205). -/
def execStxZp (z : Byte) (s : State) : StepOutcome := finish (storeReg .stx .x (.zeroPage z) s)

/-- `STX $nn,Y`, 0x96 (R205). -/
def execStxZpY (z : Byte) (s : State) : StepOutcome := finish (storeReg .stx .x (.zeroPageIndexedY z) s)

/-- `STX $nnnn`, 0x8E (R205). -/
def execStxAbs (w : Word) (s : State) : StepOutcome := finish (storeReg .stx .x (.absolute w) s)

/-- `STY $nn`, 0x84 (R206). -/
def execStyZp (z : Byte) (s : State) : StepOutcome := finish (storeReg .sty .y (.zeroPage z) s)

/-- `STY $nn,X`, 0x94 (R206). -/
def execStyZpX (z : Byte) (s : State) : StepOutcome := finish (storeReg .sty .y (.zeroPageIndexedX z) s)

/-- `STY $nnnn`, 0x8C (R206). -/
def execStyAbs (w : Word) (s : State) : StepOutcome := finish (storeReg .sty .y (.absolute w) s)

end Sys2Proof.Machine
end

