-- ==== Sys2Proof/Machine/Logical.lean ====
section
/-! DEFINITION. Logical operations (45_logical.md): the shared operations of the family, then one meaning per instruction. -/

namespace Sys2Proof.Machine

/-- `m <- Operand(mode); A <- f(A, m); SetNZ(A)` (45_logical.md R300). -/
def logical (mn : Mnemonic) (f : Byte → Byte → Byte) (o : Operand) (s : State) : Except Fault State := do
  let (m, s1) ← resolveOperand o s
  let v := f s1.a m.value
  return ((s1.setA v).setNZ v).charge mn o.mode (pageCrossExtra mn o.mode m.crossed)

/-- `A & m` (45_logical.md R301). -/
def andByte (a m : Byte) : Byte := a &&& m

/-- `A | m` (45_logical.md R302). -/
def orByte (a m : Byte) : Byte := a ||| m

/-- `A ^ m` (45_logical.md R303). -/
def xorByte (a m : Byte) : Byte := a ^^^ m

/-- `AND #$nn`, 0x29 (R301). -/
def execAndImm (v : Byte) (s : State) : StepOutcome := finish (logical .and andByte (.immediate v) s)

/-- `AND $nn`, 0x25 (R301). -/
def execAndZp (z : Byte) (s : State) : StepOutcome := finish (logical .and andByte (.zeroPage z) s)

/-- `AND $nn,X`, 0x35 (R301). -/
def execAndZpX (z : Byte) (s : State) : StepOutcome := finish (logical .and andByte (.zeroPageIndexedX z) s)

/-- `AND $nnnn`, 0x2D (R301). -/
def execAndAbs (w : Word) (s : State) : StepOutcome := finish (logical .and andByte (.absolute w) s)

/-- `AND $nnnn,X`, 0x3D (R301). -/
def execAndAbsX (w : Word) (s : State) : StepOutcome := finish (logical .and andByte (.absoluteIndexedX w) s)

/-- `AND $nnnn,Y`, 0x39 (R301). -/
def execAndAbsY (w : Word) (s : State) : StepOutcome := finish (logical .and andByte (.absoluteIndexedY w) s)

/-- `AND ($nn,X)`, 0x21 (R301). -/
def execAndIndX (z : Byte) (s : State) : StepOutcome := finish (logical .and andByte (.indirectX z) s)

/-- `AND ($nn),Y`, 0x31 (R301). -/
def execAndIndY (z : Byte) (s : State) : StepOutcome := finish (logical .and andByte (.indirectY z) s)

/-- `ORA #$nn`, 0x09 (R302). -/
def execOraImm (v : Byte) (s : State) : StepOutcome := finish (logical .ora orByte (.immediate v) s)

/-- `ORA $nn`, 0x05 (R302). -/
def execOraZp (z : Byte) (s : State) : StepOutcome := finish (logical .ora orByte (.zeroPage z) s)

/-- `ORA $nn,X`, 0x15 (R302). -/
def execOraZpX (z : Byte) (s : State) : StepOutcome := finish (logical .ora orByte (.zeroPageIndexedX z) s)

/-- `ORA $nnnn`, 0x0D (R302). -/
def execOraAbs (w : Word) (s : State) : StepOutcome := finish (logical .ora orByte (.absolute w) s)

/-- `ORA $nnnn,X`, 0x1D (R302). -/
def execOraAbsX (w : Word) (s : State) : StepOutcome := finish (logical .ora orByte (.absoluteIndexedX w) s)

/-- `ORA $nnnn,Y`, 0x19 (R302). -/
def execOraAbsY (w : Word) (s : State) : StepOutcome := finish (logical .ora orByte (.absoluteIndexedY w) s)

/-- `ORA ($nn,X)`, 0x01 (R302). -/
def execOraIndX (z : Byte) (s : State) : StepOutcome := finish (logical .ora orByte (.indirectX z) s)

/-- `ORA ($nn),Y`, 0x11 (R302). -/
def execOraIndY (z : Byte) (s : State) : StepOutcome := finish (logical .ora orByte (.indirectY z) s)

/-- `EOR #$nn`, 0x49 (R303). -/
def execEorImm (v : Byte) (s : State) : StepOutcome := finish (logical .eor xorByte (.immediate v) s)

/-- `EOR $nn`, 0x45 (R303). -/
def execEorZp (z : Byte) (s : State) : StepOutcome := finish (logical .eor xorByte (.zeroPage z) s)

/-- `EOR $nn,X`, 0x55 (R303). -/
def execEorZpX (z : Byte) (s : State) : StepOutcome := finish (logical .eor xorByte (.zeroPageIndexedX z) s)

/-- `EOR $nnnn`, 0x4D (R303). -/
def execEorAbs (w : Word) (s : State) : StepOutcome := finish (logical .eor xorByte (.absolute w) s)

/-- `EOR $nnnn,X`, 0x5D (R303). -/
def execEorAbsX (w : Word) (s : State) : StepOutcome := finish (logical .eor xorByte (.absoluteIndexedX w) s)

/-- `EOR $nnnn,Y`, 0x59 (R303). -/
def execEorAbsY (w : Word) (s : State) : StepOutcome := finish (logical .eor xorByte (.absoluteIndexedY w) s)

/-- `EOR ($nn,X)`, 0x41 (R303). -/
def execEorIndX (z : Byte) (s : State) : StepOutcome := finish (logical .eor xorByte (.indirectX z) s)

/-- `EOR ($nn),Y`, 0x51 (R303). -/
def execEorIndY (z : Byte) (s : State) : StepOutcome := finish (logical .eor xorByte (.indirectY z) s)

end Sys2Proof.Machine
end

