-- ==== Sys2Proof/Machine/Shifts.lean ====
section
/-! DEFINITION. Shifts and rotates (44_shifts.md): the shared operations of the family, then one meaning per instruction. -/

namespace Sys2Proof.Machine

/-- Write the carry and then the N and Z of a shift (44_shifts.md R280). -/
def State.setShiftFlags (s : State) (r : ShiftResult) : State := (s.setFlag .c r.carry).setNZ r.result

/-- The shape of the four shifts (44_shifts.md R280): load from A or from one effective address, shift by one
position with the carry, store to the same place, then C, N and Z. -/
def shift (mn : Mnemonic) (f : Byte → Bool → ShiftResult) (o : Operand) (s : State) : Except Fault State :=
  match o with
  | .accumulator =>
    let r := f s.a (s.flag .c)
    .ok (((s.setA r.result).setShiftFlags r).charge mn .accumulator 0)
  | o => do
    let (t, s1) ← resolveAddress o s
    let (v, s2) ← memRead t.ea s1
    let r := f v (s2.flag .c)
    let s3 ← memWrite t.ea r.result s2
    return (s3.setShiftFlags r).charge mn o.mode (pageCrossExtra mn o.mode t.crossed)

/-- `ASL A`, 0x0A (R281). -/
def execAslAcc (s : State) : StepOutcome := finish (shift .asl aslResult .accumulator s)

/-- `ASL $nn`, 0x06 (R281). -/
def execAslZp (z : Byte) (s : State) : StepOutcome := finish (shift .asl aslResult (.zeroPage z) s)

/-- `ASL $nn,X`, 0x16 (R281). -/
def execAslZpX (z : Byte) (s : State) : StepOutcome := finish (shift .asl aslResult (.zeroPageIndexedX z) s)

/-- `ASL $nnnn`, 0x0E (R281). -/
def execAslAbs (w : Word) (s : State) : StepOutcome := finish (shift .asl aslResult (.absolute w) s)

/-- `ASL $nnnn,X`, 0x1E (R281). -/
def execAslAbsX (w : Word) (s : State) : StepOutcome := finish (shift .asl aslResult (.absoluteIndexedX w) s)

/-- `LSR A`, 0x4A (R282). -/
def execLsrAcc (s : State) : StepOutcome := finish (shift .lsr lsrResult .accumulator s)

/-- `LSR $nn`, 0x46 (R282). -/
def execLsrZp (z : Byte) (s : State) : StepOutcome := finish (shift .lsr lsrResult (.zeroPage z) s)

/-- `LSR $nn,X`, 0x56 (R282). -/
def execLsrZpX (z : Byte) (s : State) : StepOutcome := finish (shift .lsr lsrResult (.zeroPageIndexedX z) s)

/-- `LSR $nnnn`, 0x4E (R282). -/
def execLsrAbs (w : Word) (s : State) : StepOutcome := finish (shift .lsr lsrResult (.absolute w) s)

/-- `LSR $nnnn,X`, 0x5E (R282). -/
def execLsrAbsX (w : Word) (s : State) : StepOutcome := finish (shift .lsr lsrResult (.absoluteIndexedX w) s)

/-- `ROL A`, 0x2A (R283). -/
def execRolAcc (s : State) : StepOutcome := finish (shift .rol rolResult .accumulator s)

/-- `ROL $nn`, 0x26 (R283). -/
def execRolZp (z : Byte) (s : State) : StepOutcome := finish (shift .rol rolResult (.zeroPage z) s)

/-- `ROL $nn,X`, 0x36 (R283). -/
def execRolZpX (z : Byte) (s : State) : StepOutcome := finish (shift .rol rolResult (.zeroPageIndexedX z) s)

/-- `ROL $nnnn`, 0x2E (R283). -/
def execRolAbs (w : Word) (s : State) : StepOutcome := finish (shift .rol rolResult (.absolute w) s)

/-- `ROL $nnnn,X`, 0x3E (R283). -/
def execRolAbsX (w : Word) (s : State) : StepOutcome := finish (shift .rol rolResult (.absoluteIndexedX w) s)

/-- `ROR A`, 0x6A (R284). -/
def execRorAcc (s : State) : StepOutcome := finish (shift .ror rorResult .accumulator s)

/-- `ROR $nn`, 0x66 (R284). -/
def execRorZp (z : Byte) (s : State) : StepOutcome := finish (shift .ror rorResult (.zeroPage z) s)

/-- `ROR $nn,X`, 0x76 (R284). -/
def execRorZpX (z : Byte) (s : State) : StepOutcome := finish (shift .ror rorResult (.zeroPageIndexedX z) s)

/-- `ROR $nnnn`, 0x6E (R284). -/
def execRorAbs (w : Word) (s : State) : StepOutcome := finish (shift .ror rorResult (.absolute w) s)

/-- `ROR $nnnn,X`, 0x7E (R284). -/
def execRorAbsX (w : Word) (s : State) : StepOutcome := finish (shift .ror rorResult (.absoluteIndexedX w) s)

end Sys2Proof.Machine
end

