-- ==== Sys2Proof/Machine/Transfers.lean ====
section
/-! DEFINITION. Register transfers (41_transfers.md): the shared operations of the family, then one meaning per instruction. -/

namespace Sys2Proof.Machine

/-- `dst <- src; SetNZ(dst)` (41_transfers.md R220). -/
def transfer (mn : Mnemonic) (src dst : Reg) (s : State) : Except Fault State :=
  let v := s.reg src
  .ok (((s.setReg dst v).setNZ v).charge mn .implied 0)

/-- `SP <- X`, and no flag (41_transfers.md R220, R225). -/
def transferNoFlags (mn : Mnemonic) (src dst : Reg) (s : State) : Except Fault State :=
  .ok ((s.setReg dst (s.reg src)).charge mn .implied 0)

/-- `TAX`, 0xAA (R221). -/
def execTax (s : State) : StepOutcome := finish (transfer .tax .a .x s)

/-- `TAY`, 0xA8 (R222). -/
def execTay (s : State) : StepOutcome := finish (transfer .tay .a .y s)

/-- `TSX`, 0xBA (R223). -/
def execTsx (s : State) : StepOutcome := finish (transfer .tsx .sp .x s)

/-- `TXA`, 0x8A (R224). -/
def execTxa (s : State) : StepOutcome := finish (transfer .txa .x .a s)

/-- `TXS`, 0x9A (R225). -/
def execTxs (s : State) : StepOutcome := finish (transferNoFlags .txs .x .sp s)

/-- `TYA`, 0x98 (R226). -/
def execTya (s : State) : StepOutcome := finish (transfer .tya .y .a s)

end Sys2Proof.Machine
end

