-- ==== Sys2Proof/Machine/Dispatch.lean ====
section
/-! DEFINITION. exec: one arm per constructor of Instr, each one direct call of its meaning (30_encoding.md R110,
"run the rule of mnemonic with mode"). -/

namespace Sys2Proof.Machine

def exec (i : Instr) (s : State) : Host.Outcome State Fault Refusal :=
  match i with
  -- Loads and stores (40_loads_stores.md)
  | .ldaImm v => Sys2Proof.Machine.execLdaImm v s
  | .ldaZp z => Sys2Proof.Machine.execLdaZp z s
  | .ldaZpX z => Sys2Proof.Machine.execLdaZpX z s
  | .ldaAbs w => Sys2Proof.Machine.execLdaAbs w s
  | .ldaAbsX w => Sys2Proof.Machine.execLdaAbsX w s
  | .ldaAbsY w => Sys2Proof.Machine.execLdaAbsY w s
  | .ldaIndX z => Sys2Proof.Machine.execLdaIndX z s
  | .ldaIndY z => Sys2Proof.Machine.execLdaIndY z s
  | .ldxImm v => Sys2Proof.Machine.execLdxImm v s
  | .ldxZp z => Sys2Proof.Machine.execLdxZp z s
  | .ldxZpY z => Sys2Proof.Machine.execLdxZpY z s
  | .ldxAbs w => Sys2Proof.Machine.execLdxAbs w s
  | .ldxAbsY w => Sys2Proof.Machine.execLdxAbsY w s
  | .ldyImm v => Sys2Proof.Machine.execLdyImm v s
  | .ldyZp z => Sys2Proof.Machine.execLdyZp z s
  | .ldyZpX z => Sys2Proof.Machine.execLdyZpX z s
  | .ldyAbs w => Sys2Proof.Machine.execLdyAbs w s
  | .ldyAbsX w => Sys2Proof.Machine.execLdyAbsX w s
  | .staZp z => Sys2Proof.Machine.execStaZp z s
  | .staZpX z => Sys2Proof.Machine.execStaZpX z s
  | .staAbs w => Sys2Proof.Machine.execStaAbs w s
  | .staAbsX w => Sys2Proof.Machine.execStaAbsX w s
  | .staAbsY w => Sys2Proof.Machine.execStaAbsY w s
  | .staIndX z => Sys2Proof.Machine.execStaIndX z s
  | .staIndY z => Sys2Proof.Machine.execStaIndY z s
  | .stxZp z => Sys2Proof.Machine.execStxZp z s
  | .stxZpY z => Sys2Proof.Machine.execStxZpY z s
  | .stxAbs w => Sys2Proof.Machine.execStxAbs w s
  | .styZp z => Sys2Proof.Machine.execStyZp z s
  | .styZpX z => Sys2Proof.Machine.execStyZpX z s
  | .styAbs w => Sys2Proof.Machine.execStyAbs w s
  -- Register transfers (41_transfers.md)
  | .tax => Sys2Proof.Machine.execTax s
  | .tay => Sys2Proof.Machine.execTay s
  | .tsx => Sys2Proof.Machine.execTsx s
  | .txa => Sys2Proof.Machine.execTxa s
  | .txs => Sys2Proof.Machine.execTxs s
  | .tya => Sys2Proof.Machine.execTya s
  -- Arithmetic (42_arithmetic.md)
  | .adcImm v => Sys2Proof.Machine.execAdcImm v s
  | .adcZp z => Sys2Proof.Machine.execAdcZp z s
  | .adcZpX z => Sys2Proof.Machine.execAdcZpX z s
  | .adcAbs w => Sys2Proof.Machine.execAdcAbs w s
  | .adcAbsX w => Sys2Proof.Machine.execAdcAbsX w s
  | .adcAbsY w => Sys2Proof.Machine.execAdcAbsY w s
  | .adcIndX z => Sys2Proof.Machine.execAdcIndX z s
  | .adcIndY z => Sys2Proof.Machine.execAdcIndY z s
  | .sbcImm v => Sys2Proof.Machine.execSbcImm v s
  | .sbcZp z => Sys2Proof.Machine.execSbcZp z s
  | .sbcZpX z => Sys2Proof.Machine.execSbcZpX z s
  | .sbcAbs w => Sys2Proof.Machine.execSbcAbs w s
  | .sbcAbsX w => Sys2Proof.Machine.execSbcAbsX w s
  | .sbcAbsY w => Sys2Proof.Machine.execSbcAbsY w s
  | .sbcIndX z => Sys2Proof.Machine.execSbcIndX z s
  | .sbcIndY z => Sys2Proof.Machine.execSbcIndY z s
  -- Increment and decrement (43_incdec.md)
  | .incZp z => Sys2Proof.Machine.execIncZp z s
  | .incZpX z => Sys2Proof.Machine.execIncZpX z s
  | .incAbs w => Sys2Proof.Machine.execIncAbs w s
  | .incAbsX w => Sys2Proof.Machine.execIncAbsX w s
  | .decZp z => Sys2Proof.Machine.execDecZp z s
  | .decZpX z => Sys2Proof.Machine.execDecZpX z s
  | .decAbs w => Sys2Proof.Machine.execDecAbs w s
  | .decAbsX w => Sys2Proof.Machine.execDecAbsX w s
  | .inx => Sys2Proof.Machine.execInx s
  | .iny => Sys2Proof.Machine.execIny s
  | .dex => Sys2Proof.Machine.execDex s
  | .dey => Sys2Proof.Machine.execDey s
  -- Shifts and rotates (44_shifts.md)
  | .aslAcc => Sys2Proof.Machine.execAslAcc s
  | .aslZp z => Sys2Proof.Machine.execAslZp z s
  | .aslZpX z => Sys2Proof.Machine.execAslZpX z s
  | .aslAbs w => Sys2Proof.Machine.execAslAbs w s
  | .aslAbsX w => Sys2Proof.Machine.execAslAbsX w s
  | .lsrAcc => Sys2Proof.Machine.execLsrAcc s
  | .lsrZp z => Sys2Proof.Machine.execLsrZp z s
  | .lsrZpX z => Sys2Proof.Machine.execLsrZpX z s
  | .lsrAbs w => Sys2Proof.Machine.execLsrAbs w s
  | .lsrAbsX w => Sys2Proof.Machine.execLsrAbsX w s
  | .rolAcc => Sys2Proof.Machine.execRolAcc s
  | .rolZp z => Sys2Proof.Machine.execRolZp z s
  | .rolZpX z => Sys2Proof.Machine.execRolZpX z s
  | .rolAbs w => Sys2Proof.Machine.execRolAbs w s
  | .rolAbsX w => Sys2Proof.Machine.execRolAbsX w s
  | .rorAcc => Sys2Proof.Machine.execRorAcc s
  | .rorZp z => Sys2Proof.Machine.execRorZp z s
  | .rorZpX z => Sys2Proof.Machine.execRorZpX z s
  | .rorAbs w => Sys2Proof.Machine.execRorAbs w s
  | .rorAbsX w => Sys2Proof.Machine.execRorAbsX w s
  -- Logical operations (45_logical.md)
  | .andImm v => Sys2Proof.Machine.execAndImm v s
  | .andZp z => Sys2Proof.Machine.execAndZp z s
  | .andZpX z => Sys2Proof.Machine.execAndZpX z s
  | .andAbs w => Sys2Proof.Machine.execAndAbs w s
  | .andAbsX w => Sys2Proof.Machine.execAndAbsX w s
  | .andAbsY w => Sys2Proof.Machine.execAndAbsY w s
  | .andIndX z => Sys2Proof.Machine.execAndIndX z s
  | .andIndY z => Sys2Proof.Machine.execAndIndY z s
  | .oraImm v => Sys2Proof.Machine.execOraImm v s
  | .oraZp z => Sys2Proof.Machine.execOraZp z s
  | .oraZpX z => Sys2Proof.Machine.execOraZpX z s
  | .oraAbs w => Sys2Proof.Machine.execOraAbs w s
  | .oraAbsX w => Sys2Proof.Machine.execOraAbsX w s
  | .oraAbsY w => Sys2Proof.Machine.execOraAbsY w s
  | .oraIndX z => Sys2Proof.Machine.execOraIndX z s
  | .oraIndY z => Sys2Proof.Machine.execOraIndY z s
  | .eorImm v => Sys2Proof.Machine.execEorImm v s
  | .eorZp z => Sys2Proof.Machine.execEorZp z s
  | .eorZpX z => Sys2Proof.Machine.execEorZpX z s
  | .eorAbs w => Sys2Proof.Machine.execEorAbs w s
  | .eorAbsX w => Sys2Proof.Machine.execEorAbsX w s
  | .eorAbsY w => Sys2Proof.Machine.execEorAbsY w s
  | .eorIndX z => Sys2Proof.Machine.execEorIndX z s
  | .eorIndY z => Sys2Proof.Machine.execEorIndY z s
  -- Compare and bit test (46_compare_bit.md)
  | .cmpImm v => Sys2Proof.Machine.execCmpImm v s
  | .cmpZp z => Sys2Proof.Machine.execCmpZp z s
  | .cmpZpX z => Sys2Proof.Machine.execCmpZpX z s
  | .cmpAbs w => Sys2Proof.Machine.execCmpAbs w s
  | .cmpAbsX w => Sys2Proof.Machine.execCmpAbsX w s
  | .cmpAbsY w => Sys2Proof.Machine.execCmpAbsY w s
  | .cmpIndX z => Sys2Proof.Machine.execCmpIndX z s
  | .cmpIndY z => Sys2Proof.Machine.execCmpIndY z s
  | .cpxImm v => Sys2Proof.Machine.execCpxImm v s
  | .cpxZp z => Sys2Proof.Machine.execCpxZp z s
  | .cpxAbs w => Sys2Proof.Machine.execCpxAbs w s
  | .cpyImm v => Sys2Proof.Machine.execCpyImm v s
  | .cpyZp z => Sys2Proof.Machine.execCpyZp z s
  | .cpyAbs w => Sys2Proof.Machine.execCpyAbs w s
  | .bitZp z => Sys2Proof.Machine.execBitZp z s
  | .bitAbs w => Sys2Proof.Machine.execBitAbs w s
  -- Conditional branches (47_branches.md)
  | .bcc off => Sys2Proof.Machine.execBcc off s
  | .bcs off => Sys2Proof.Machine.execBcs off s
  | .beq off => Sys2Proof.Machine.execBeq off s
  | .bmi off => Sys2Proof.Machine.execBmi off s
  | .bne off => Sys2Proof.Machine.execBne off s
  | .bpl off => Sys2Proof.Machine.execBpl off s
  | .bvc off => Sys2Proof.Machine.execBvc off s
  | .bvs off => Sys2Proof.Machine.execBvs off s
  -- Status-flag control (48_flag_control.md)
  | .clc => Sys2Proof.Machine.execClc s
  | .cld => Sys2Proof.Machine.execCld s
  | .cli => Sys2Proof.Machine.execCli s
  | .clv => Sys2Proof.Machine.execClv s
  | .sec => Sys2Proof.Machine.execSec s
  | .sed => Sys2Proof.Machine.execSed s
  | .sei => Sys2Proof.Machine.execSei s
  -- Jumps, subroutines, stack, software interrupt, no-op (49_jumps_stack.md)
  | .jmpAbs w => Sys2Proof.Machine.execJmpAbs w s
  | .jmpInd w => Sys2Proof.Machine.execJmpInd w s
  | .jsrAbs w => Sys2Proof.Machine.execJsrAbs w s
  | .rts => Sys2Proof.Machine.execRts s
  | .brk => Sys2Proof.Machine.execBrk s
  | .rti => Sys2Proof.Machine.execRti s
  | .php => Sys2Proof.Machine.execPhp s
  | .pha => Sys2Proof.Machine.execPha s
  | .plp => Sys2Proof.Machine.execPlp s
  | .pla => Sys2Proof.Machine.execPla s
  | .nop => Sys2Proof.Machine.execNop s

end Sys2Proof.Machine
end

