-- ==== Sys2Proof/WellFormed.lean ====
section
/-! DEFINITION. Well-formedness: an instruction is a mnemonic with an addressing mode that mnemonic supports
(30_encoding.md R114: a pairing outside the opcode map is a programming error, never an instruction).
The modes of each mnemonic are those its rule in files 40 to 49 lists. Operand bytes need no check: a byte
operand is a BitVec 8 and a word operand a BitVec 16, every value of which is legal. -/

namespace Sys2Proof

/-- Whether a mnemonic has an instruction in a mode: "every instruction has distinct addressing-mode
legality" (30_encoding.md R111), each line from the rule of the mnemonics it names. -/
def legalMode : Mnemonic → Mode → Bool
  -- R201, R241, R242, R301 to R303, R321
  | .lda, m | .adc, m | .sbc, m | .and, m | .ora, m | .eor, m | .cmp, m =>
    match m with
    | .immediate | .zeroPage | .zeroPageIndexedX | .absolute | .absoluteIndexedX | .absoluteIndexedY
    | .indirectX | .indirectY => true
    | _ => false
  -- R202
  | .ldx, m =>
    match m with
    | .immediate | .zeroPage | .zeroPageIndexedY | .absolute | .absoluteIndexedY => true
    | _ => false
  -- R203
  | .ldy, m =>
    match m with
    | .immediate | .zeroPage | .zeroPageIndexedX | .absolute | .absoluteIndexedX => true
    | _ => false
  -- R204
  | .sta, m =>
    match m with
    | .zeroPage | .zeroPageIndexedX | .absolute | .absoluteIndexedX | .absoluteIndexedY
    | .indirectX | .indirectY => true
    | _ => false
  -- R205
  | .stx, m => match m with | .zeroPage | .zeroPageIndexedY | .absolute => true | _ => false
  -- R206
  | .sty, m => match m with | .zeroPage | .zeroPageIndexedX | .absolute => true | _ => false
  -- R261, R262
  | .inc, m | .dec, m =>
    match m with
    | .zeroPage | .zeroPageIndexedX | .absolute | .absoluteIndexedX => true
    | _ => false
  -- R281 to R284
  | .asl, m | .lsr, m | .rol, m | .ror, m =>
    match m with
    | .accumulator | .zeroPage | .zeroPageIndexedX | .absolute | .absoluteIndexedX => true
    | _ => false
  -- R322, R323
  | .cpx, m | .cpy, m => match m with | .immediate | .zeroPage | .absolute => true | _ => false
  -- R324
  | .bit, m => match m with | .zeroPage | .absolute => true | _ => false
  -- R341 to R348
  | .bcc, m | .bcs, m | .beq, m | .bmi, m | .bne, m | .bpl, m | .bvc, m | .bvs, m => m == .relative
  -- R380
  | .jmp, m => match m with | .absolute | .absoluteIndirect => true | _ => false
  -- R381
  | .jsr, m => m == .absolute
  -- R221 to R226, R263 to R266, R361 to R367, R382, R384 to R390
  | .tax, m | .tay, m | .tsx, m | .txa, m | .txs, m | .tya, m | .inx, m | .iny, m | .dex, m | .dey, m
  | .clc, m | .cld, m | .cli, m | .clv, m | .sec, m | .sed, m | .sei, m
  | .rts, m | .brk, m | .rti, m | .php, m | .pha, m | .plp, m | .pla, m | .nop, m => m == .implied

/-- A mnemonic with an operand is an instruction when its mode is legal for the mnemonic. -/
def legalPair (mn : Mnemonic) (o : Operand) : Bool := legalMode mn o.mode

/-- The well-formedness check of an instruction. -/
def Instr.wellFormed (i : Instr) : Bool := legalPair i.mnemonic i.operand

end Sys2Proof
end

