-- ==== Sys2Proof/Decode.lean ====
section
/-! DEFINITION. The decoder, total on any bytes and refusing by name, from the opcode map (30_encoding.md R111),
and the encoder, from the opcode bytes that the instruction rules of files 40 to 49 list. The two tables are
two places of the spec; that they agree is a theorem, not an assumption. -/

namespace Sys2Proof

/-- What an opcode byte selects: an instruction that lacks only its operand bytes (30_encoding.md R100). -/
inductive OpForm where
  | noOperand (i : Instr)
  | byteOperand (f : Byte → Instr)
  | wordOperand (f : Word → Instr)

/-- How many operand bytes follow the opcode byte. -/
def OpForm.operandBytes : OpForm → Nat
  | .noOperand _ => 0
  | .byteOperand _ => 1
  | .wordOperand _ => 2

/-- Row 0x of the opcode map (30_encoding.md R111), columns x0 to xF. -/
def opcodeRow0 : List (Option OpForm) :=
  [ some (.noOperand .brk),
    some (.byteOperand .oraIndX),
    none,
    none,
    none,
    some (.byteOperand .oraZp),
    some (.byteOperand .aslZp),
    none,
    some (.noOperand .php),
    some (.byteOperand .oraImm),
    some (.noOperand .aslAcc),
    none,
    none,
    some (.wordOperand .oraAbs),
    some (.wordOperand .aslAbs),
    none ]

/-- Row 1x of the opcode map (30_encoding.md R111), columns x0 to xF. -/
def opcodeRow1 : List (Option OpForm) :=
  [ some (.byteOperand .bpl),
    some (.byteOperand .oraIndY),
    none,
    none,
    none,
    some (.byteOperand .oraZpX),
    some (.byteOperand .aslZpX),
    none,
    some (.noOperand .clc),
    some (.wordOperand .oraAbsY),
    none,
    none,
    none,
    some (.wordOperand .oraAbsX),
    some (.wordOperand .aslAbsX),
    none ]

/-- Row 2x of the opcode map (30_encoding.md R111), columns x0 to xF. -/
def opcodeRow2 : List (Option OpForm) :=
  [ some (.wordOperand .jsrAbs),
    some (.byteOperand .andIndX),
    none,
    none,
    some (.byteOperand .bitZp),
    some (.byteOperand .andZp),
    some (.byteOperand .rolZp),
    none,
    some (.noOperand .plp),
    some (.byteOperand .andImm),
    some (.noOperand .rolAcc),
    none,
    some (.wordOperand .bitAbs),
    some (.wordOperand .andAbs),
    some (.wordOperand .rolAbs),
    none ]

/-- Row 3x of the opcode map (30_encoding.md R111), columns x0 to xF. -/
def opcodeRow3 : List (Option OpForm) :=
  [ some (.byteOperand .bmi),
    some (.byteOperand .andIndY),
    none,
    none,
    none,
    some (.byteOperand .andZpX),
    some (.byteOperand .rolZpX),
    none,
    some (.noOperand .sec),
    some (.wordOperand .andAbsY),
    none,
    none,
    none,
    some (.wordOperand .andAbsX),
    some (.wordOperand .rolAbsX),
    none ]

/-- Row 4x of the opcode map (30_encoding.md R111), columns x0 to xF. -/
def opcodeRow4 : List (Option OpForm) :=
  [ some (.noOperand .rti),
    some (.byteOperand .eorIndX),
    none,
    none,
    none,
    some (.byteOperand .eorZp),
    some (.byteOperand .lsrZp),
    none,
    some (.noOperand .pha),
    some (.byteOperand .eorImm),
    some (.noOperand .lsrAcc),
    none,
    some (.wordOperand .jmpAbs),
    some (.wordOperand .eorAbs),
    some (.wordOperand .lsrAbs),
    none ]

/-- Row 5x of the opcode map (30_encoding.md R111), columns x0 to xF. -/
def opcodeRow5 : List (Option OpForm) :=
  [ some (.byteOperand .bvc),
    some (.byteOperand .eorIndY),
    none,
    none,
    none,
    some (.byteOperand .eorZpX),
    some (.byteOperand .lsrZpX),
    none,
    some (.noOperand .cli),
    some (.wordOperand .eorAbsY),
    none,
    none,
    none,
    some (.wordOperand .eorAbsX),
    some (.wordOperand .lsrAbsX),
    none ]

/-- Row 6x of the opcode map (30_encoding.md R111), columns x0 to xF. -/
def opcodeRow6 : List (Option OpForm) :=
  [ some (.noOperand .rts),
    some (.byteOperand .adcIndX),
    none,
    none,
    none,
    some (.byteOperand .adcZp),
    some (.byteOperand .rorZp),
    none,
    some (.noOperand .pla),
    some (.byteOperand .adcImm),
    some (.noOperand .rorAcc),
    none,
    some (.wordOperand .jmpInd),
    some (.wordOperand .adcAbs),
    some (.wordOperand .rorAbs),
    none ]

/-- Row 7x of the opcode map (30_encoding.md R111), columns x0 to xF. -/
def opcodeRow7 : List (Option OpForm) :=
  [ some (.byteOperand .bvs),
    some (.byteOperand .adcIndY),
    none,
    none,
    none,
    some (.byteOperand .adcZpX),
    some (.byteOperand .rorZpX),
    none,
    some (.noOperand .sei),
    some (.wordOperand .adcAbsY),
    none,
    none,
    none,
    some (.wordOperand .adcAbsX),
    some (.wordOperand .rorAbsX),
    none ]

/-- Row 8x of the opcode map (30_encoding.md R111), columns x0 to xF. -/
def opcodeRow8 : List (Option OpForm) :=
  [ none,
    some (.byteOperand .staIndX),
    none,
    none,
    some (.byteOperand .styZp),
    some (.byteOperand .staZp),
    some (.byteOperand .stxZp),
    none,
    some (.noOperand .dey),
    none,
    some (.noOperand .txa),
    none,
    some (.wordOperand .styAbs),
    some (.wordOperand .staAbs),
    some (.wordOperand .stxAbs),
    none ]

/-- Row 9x of the opcode map (30_encoding.md R111), columns x0 to xF. -/
def opcodeRow9 : List (Option OpForm) :=
  [ some (.byteOperand .bcc),
    some (.byteOperand .staIndY),
    none,
    none,
    some (.byteOperand .styZpX),
    some (.byteOperand .staZpX),
    some (.byteOperand .stxZpY),
    none,
    some (.noOperand .tya),
    some (.wordOperand .staAbsY),
    some (.noOperand .txs),
    none,
    none,
    some (.wordOperand .staAbsX),
    none,
    none ]

/-- Row Ax of the opcode map (30_encoding.md R111), columns x0 to xF. -/
def opcodeRowA : List (Option OpForm) :=
  [ some (.byteOperand .ldyImm),
    some (.byteOperand .ldaIndX),
    some (.byteOperand .ldxImm),
    none,
    some (.byteOperand .ldyZp),
    some (.byteOperand .ldaZp),
    some (.byteOperand .ldxZp),
    none,
    some (.noOperand .tay),
    some (.byteOperand .ldaImm),
    some (.noOperand .tax),
    none,
    some (.wordOperand .ldyAbs),
    some (.wordOperand .ldaAbs),
    some (.wordOperand .ldxAbs),
    none ]

/-- Row Bx of the opcode map (30_encoding.md R111), columns x0 to xF. -/
def opcodeRowB : List (Option OpForm) :=
  [ some (.byteOperand .bcs),
    some (.byteOperand .ldaIndY),
    none,
    none,
    some (.byteOperand .ldyZpX),
    some (.byteOperand .ldaZpX),
    some (.byteOperand .ldxZpY),
    none,
    some (.noOperand .clv),
    some (.wordOperand .ldaAbsY),
    some (.noOperand .tsx),
    none,
    some (.wordOperand .ldyAbsX),
    some (.wordOperand .ldaAbsX),
    some (.wordOperand .ldxAbsY),
    none ]

/-- Row Cx of the opcode map (30_encoding.md R111), columns x0 to xF. -/
def opcodeRowC : List (Option OpForm) :=
  [ some (.byteOperand .cpyImm),
    some (.byteOperand .cmpIndX),
    none,
    none,
    some (.byteOperand .cpyZp),
    some (.byteOperand .cmpZp),
    some (.byteOperand .decZp),
    none,
    some (.noOperand .iny),
    some (.byteOperand .cmpImm),
    some (.noOperand .dex),
    none,
    some (.wordOperand .cpyAbs),
    some (.wordOperand .cmpAbs),
    some (.wordOperand .decAbs),
    none ]

/-- Row Dx of the opcode map (30_encoding.md R111), columns x0 to xF. -/
def opcodeRowD : List (Option OpForm) :=
  [ some (.byteOperand .bne),
    some (.byteOperand .cmpIndY),
    none,
    none,
    none,
    some (.byteOperand .cmpZpX),
    some (.byteOperand .decZpX),
    none,
    some (.noOperand .cld),
    some (.wordOperand .cmpAbsY),
    none,
    none,
    none,
    some (.wordOperand .cmpAbsX),
    some (.wordOperand .decAbsX),
    none ]

/-- Row Ex of the opcode map (30_encoding.md R111), columns x0 to xF. -/
def opcodeRowE : List (Option OpForm) :=
  [ some (.byteOperand .cpxImm),
    some (.byteOperand .sbcIndX),
    none,
    none,
    some (.byteOperand .cpxZp),
    some (.byteOperand .sbcZp),
    some (.byteOperand .incZp),
    none,
    some (.noOperand .inx),
    some (.byteOperand .sbcImm),
    some (.noOperand .nop),
    none,
    some (.wordOperand .cpxAbs),
    some (.wordOperand .sbcAbs),
    some (.wordOperand .incAbs),
    none ]

/-- Row Fx of the opcode map (30_encoding.md R111), columns x0 to xF. -/
def opcodeRowF : List (Option OpForm) :=
  [ some (.byteOperand .beq),
    some (.byteOperand .sbcIndY),
    none,
    none,
    none,
    some (.byteOperand .sbcZpX),
    some (.byteOperand .incZpX),
    none,
    some (.noOperand .sed),
    some (.wordOperand .sbcAbsY),
    none,
    none,
    none,
    some (.wordOperand .sbcAbsX),
    some (.wordOperand .incAbsX),
    none ]

/-- The sixteen rows of the opcode map (30_encoding.md R111): the row is the high nibble. -/
def opcodeRows : List (List (Option OpForm)) :=
  [ opcodeRow0, opcodeRow1, opcodeRow2, opcodeRow3, opcodeRow4, opcodeRow5, opcodeRow6, opcodeRow7,
    opcodeRow8, opcodeRow9, opcodeRowA, opcodeRowB, opcodeRowC, opcodeRowD, opcodeRowE, opcodeRowF ]

/-- `OpcodeMap[op]`: none for the 105 bytes with no instruction (30_encoding.md R111, R112). -/
def opcodeMap (op : Byte) : Option OpForm :=
  ((opcodeRows.getD (op.toNat / 16) []).getD (op.toNat % 16) none)

/-- Why bytes are no instruction. -/
inductive DecodeError where
  /-- The opcode byte has no instruction (30_encoding.md R112). -/
  | unassigned (opcode : Byte)
  /-- The list ends before the operand bytes do; a fetch from memory never meets this. -/
  | truncated
  deriving DecidableEq, Repr

/-- The decoder: the instruction at the head of a list of bytes and the bytes after it. A word operand is
`hi ++ lo` with the low byte first (30_encoding.md R100, R102). -/
def decode : List Byte → Except DecodeError (Instr × List Byte)
  | [] => .error .truncated
  | op :: rest =>
    match opcodeMap op with
    | none => .error (.unassigned op)
    | some (.noOperand i) => .ok (i, rest)
    | some (.byteOperand f) =>
      match rest with
      | b :: rest' => .ok (f b, rest')
      | [] => .error .truncated
    | some (.wordOperand f) =>
      match rest with
      | lo :: hi :: rest' => .ok (f (joinBytes hi lo), rest')
      | _ => .error .truncated

/-- The opcode byte of an instruction, from the "Operands and encoding" lists of the rules named. -/
def Instr.opcode : Instr → Byte
  -- R201 LDA
  | .ldaImm _ => 0xA9
  | .ldaZp _ => 0xA5
  | .ldaZpX _ => 0xB5
  | .ldaAbs _ => 0xAD
  | .ldaAbsX _ => 0xBD
  | .ldaAbsY _ => 0xB9
  | .ldaIndX _ => 0xA1
  | .ldaIndY _ => 0xB1
  -- R202 LDX
  | .ldxImm _ => 0xA2
  | .ldxZp _ => 0xA6
  | .ldxZpY _ => 0xB6
  | .ldxAbs _ => 0xAE
  | .ldxAbsY _ => 0xBE
  -- R203 LDY
  | .ldyImm _ => 0xA0
  | .ldyZp _ => 0xA4
  | .ldyZpX _ => 0xB4
  | .ldyAbs _ => 0xAC
  | .ldyAbsX _ => 0xBC
  -- R204 STA
  | .staZp _ => 0x85
  | .staZpX _ => 0x95
  | .staAbs _ => 0x8D
  | .staAbsX _ => 0x9D
  | .staAbsY _ => 0x99
  | .staIndX _ => 0x81
  | .staIndY _ => 0x91
  -- R205 STX
  | .stxZp _ => 0x86
  | .stxZpY _ => 0x96
  | .stxAbs _ => 0x8E
  -- R206 STY
  | .styZp _ => 0x84
  | .styZpX _ => 0x94
  | .styAbs _ => 0x8C
  -- R221 TAX
  | .tax => 0xAA
  -- R222 TAY
  | .tay => 0xA8
  -- R223 TSX
  | .tsx => 0xBA
  -- R224 TXA
  | .txa => 0x8A
  -- R225 TXS
  | .txs => 0x9A
  -- R226 TYA
  | .tya => 0x98
  -- R241 ADC
  | .adcImm _ => 0x69
  | .adcZp _ => 0x65
  | .adcZpX _ => 0x75
  | .adcAbs _ => 0x6D
  | .adcAbsX _ => 0x7D
  | .adcAbsY _ => 0x79
  | .adcIndX _ => 0x61
  | .adcIndY _ => 0x71
  -- R242 SBC
  | .sbcImm _ => 0xE9
  | .sbcZp _ => 0xE5
  | .sbcZpX _ => 0xF5
  | .sbcAbs _ => 0xED
  | .sbcAbsX _ => 0xFD
  | .sbcAbsY _ => 0xF9
  | .sbcIndX _ => 0xE1
  | .sbcIndY _ => 0xF1
  -- R261 INC
  | .incZp _ => 0xE6
  | .incZpX _ => 0xF6
  | .incAbs _ => 0xEE
  | .incAbsX _ => 0xFE
  -- R262 DEC
  | .decZp _ => 0xC6
  | .decZpX _ => 0xD6
  | .decAbs _ => 0xCE
  | .decAbsX _ => 0xDE
  -- R263 INX
  | .inx => 0xE8
  -- R264 INY
  | .iny => 0xC8
  -- R265 DEX
  | .dex => 0xCA
  -- R266 DEY
  | .dey => 0x88
  -- R281 ASL
  | .aslAcc => 0x0A
  | .aslZp _ => 0x06
  | .aslZpX _ => 0x16
  | .aslAbs _ => 0x0E
  | .aslAbsX _ => 0x1E
  -- R282 LSR
  | .lsrAcc => 0x4A
  | .lsrZp _ => 0x46
  | .lsrZpX _ => 0x56
  | .lsrAbs _ => 0x4E
  | .lsrAbsX _ => 0x5E
  -- R283 ROL
  | .rolAcc => 0x2A
  | .rolZp _ => 0x26
  | .rolZpX _ => 0x36
  | .rolAbs _ => 0x2E
  | .rolAbsX _ => 0x3E
  -- R284 ROR
  | .rorAcc => 0x6A
  | .rorZp _ => 0x66
  | .rorZpX _ => 0x76
  | .rorAbs _ => 0x6E
  | .rorAbsX _ => 0x7E
  -- R301 AND
  | .andImm _ => 0x29
  | .andZp _ => 0x25
  | .andZpX _ => 0x35
  | .andAbs _ => 0x2D
  | .andAbsX _ => 0x3D
  | .andAbsY _ => 0x39
  | .andIndX _ => 0x21
  | .andIndY _ => 0x31
  -- R302 ORA
  | .oraImm _ => 0x09
  | .oraZp _ => 0x05
  | .oraZpX _ => 0x15
  | .oraAbs _ => 0x0D
  | .oraAbsX _ => 0x1D
  | .oraAbsY _ => 0x19
  | .oraIndX _ => 0x01
  | .oraIndY _ => 0x11
  -- R303 EOR
  | .eorImm _ => 0x49
  | .eorZp _ => 0x45
  | .eorZpX _ => 0x55
  | .eorAbs _ => 0x4D
  | .eorAbsX _ => 0x5D
  | .eorAbsY _ => 0x59
  | .eorIndX _ => 0x41
  | .eorIndY _ => 0x51
  -- R321 CMP
  | .cmpImm _ => 0xC9
  | .cmpZp _ => 0xC5
  | .cmpZpX _ => 0xD5
  | .cmpAbs _ => 0xCD
  | .cmpAbsX _ => 0xDD
  | .cmpAbsY _ => 0xD9
  | .cmpIndX _ => 0xC1
  | .cmpIndY _ => 0xD1
  -- R322 CPX
  | .cpxImm _ => 0xE0
  | .cpxZp _ => 0xE4
  | .cpxAbs _ => 0xEC
  -- R323 CPY
  | .cpyImm _ => 0xC0
  | .cpyZp _ => 0xC4
  | .cpyAbs _ => 0xCC
  -- R324 BIT
  | .bitZp _ => 0x24
  | .bitAbs _ => 0x2C
  -- R341 BCC
  | .bcc _ => 0x90
  -- R342 BCS
  | .bcs _ => 0xB0
  -- R343 BEQ
  | .beq _ => 0xF0
  -- R344 BMI
  | .bmi _ => 0x30
  -- R345 BNE
  | .bne _ => 0xD0
  -- R346 BPL
  | .bpl _ => 0x10
  -- R347 BVC
  | .bvc _ => 0x50
  -- R348 BVS
  | .bvs _ => 0x70
  -- R361 CLC
  | .clc => 0x18
  -- R362 CLD
  | .cld => 0xD8
  -- R363 CLI
  | .cli => 0x58
  -- R364 CLV
  | .clv => 0xB8
  -- R365 SEC
  | .sec => 0x38
  -- R366 SED
  | .sed => 0xF8
  -- R367 SEI
  | .sei => 0x78
  -- R380 JMP
  | .jmpAbs _ => 0x4C
  | .jmpInd _ => 0x6C
  -- R381 JSR
  | .jsrAbs _ => 0x20
  -- R382 RTS
  | .rts => 0x60
  -- R384 BRK
  | .brk => 0x00
  -- R385 RTI
  | .rti => 0x40
  -- R386 PHP
  | .php => 0x08
  -- R387 PHA
  | .pha => 0x48
  -- R388 PLP
  | .plp => 0x28
  -- R389 PLA
  | .pla => 0x68
  -- R390 NOP
  | .nop => 0xEA

/-- The operand bytes of an operand, in the order they follow the opcode (30_encoding.md R102). -/
def Operand.bytes : Operand → List Byte
  | .implied | .accumulator => []
  | .immediate b | .zeroPage b | .zeroPageIndexedX b | .zeroPageIndexedY b
  | .indirectX b | .indirectY b | .relative b => [b]
  | .absolute w | .absoluteIndexedX w | .absoluteIndexedY w | .absoluteIndirect w => [loByte w, hiByte w]

/-- The encoder: the opcode byte, then the operand bytes (30_encoding.md R100). -/
def encode (i : Instr) : List Byte := i.opcode :: i.operand.bytes

/-- The length of an instruction in bytes: 1 plus its operand bytes (30_encoding.md R101). -/
def Instr.length (i : Instr) : Nat := 1 + i.mode.operandBytes

/-- The longest instruction, 3 bytes (30_encoding.md R101). -/
def maxInstrLength : Nat := 3

/-- The three bytes of an instruction whose bits are `w`, bit 0 the least significant bit of the first
byte, bits from `nbits` up taken as 0. The core is little-endian, so byte k holds bits 8k+7 to 8k. -/
def tableWordBytes (nbits w : Nat) : List Byte :=
  let v := w % 2 ^ nbits
  [BitVec.ofNat 8 v, BitVec.ofNat 8 (v / 256), BitVec.ofNat 8 (v / 65536)]

/-- The instruction the decoder reads from a word numbered as spec/opcode_table.json numbers it. -/
def decodeTableWord (nbits w : Nat) : Option Instr :=
  match decode (tableWordBytes nbits w) with
  | .ok (i, _) => some i
  | .error _ => none

end Sys2Proof
end

