-- ==== Sys2Proof/Machine/Fetch.lean ====
section
/-! DEFINITION. Fetching an instruction: the opcode byte, the decode, then the operand bytes, each through
`Fetch()` (30_encoding.md R100, R110; 20_memory.md R63, R76). -/

namespace Sys2Proof.Machine

/-- Fetch the operand bytes an opcode byte asks for, low byte of a word first (30_encoding.md R102). -/
def fetchOperand (form : OpForm) (s : State) : Except Fault (Instr × State) :=
  match form with
  | .noOperand i => .ok (i, s)
  | .byteOperand f => do
    let (b, s1) ← fetch s
    return (f b, s1)
  | .wordOperand f => do
    let (lo, s1) ← fetch s
    let (hi, s2) ← fetch s1
    return (f (joinBytes hi lo), s2)

/-- Fetch and decode one instruction. A byte with no instruction ends the step with `DecodeFault(op, pc0)`,
before any other effect, and PC is restored (30_encoding.md R110, R112; 60_exceptions.md R501). -/
def fetchInstr (s : State) : Except Fault (Instr × State) := do
  let (op, s1) ← fetch s
  match opcodeMap op with
  | none => .error (.decodeFault op s.pc (s1.setPC s.pc))
  | some form => fetchOperand form s1

/-- The `n` bytes at an address and after it, modulo 65536. -/
def State.bytesAt (s : State) (a : Word) : Nat → List Byte
  | 0 => []
  | n + 1 => s.readByte a :: s.bytesAt (a + 1) n

/-- The state with a list of bytes stored at an address and after it, modulo 65536. -/
def State.storeBytes (s : State) (a : Word) : List Byte → State
  | [] => s
  | b :: bs => (s.writeByte a b).storeBytes (a + 1) bs

end Sys2Proof.Machine
end

