-- ==== Sys2Proof/Machine/Step.lean ====
section
/-! DEFINITION. One step of the core (30_encoding.md R110): clear the outputs, fetch and decode one instruction,
run its rule. And the placing of an instruction where the next step fetches it. -/

namespace Sys2Proof.Machine

/-- `Step()` (30_encoding.md R110; 00_scope.md R6). -/
def step (s : State) : Host.Outcome State Fault Refusal :=
  match fetchInstr s.clearOutputs with
  | .error f => .fault f
  | .ok (i, s1) => exec i s1

/-- `s` with the bytes of an instruction stored at PC, so that the next step fetches it: the bits above
`nbits` are 0, up to the longest instruction. Where the bus has windows, RAM is put behind those bytes, and a
read the bus would fail at one of them is let through, since the fetch needs it (log entry 6). -/
def State.withFetchWord (s : State) (nbits w : Nat) : State :=
  let bytes := tableWordBytes nbits w
  let here := s.storeBytes s.pc bytes
  { here with
    windows := if here.windows.isEmpty then [] else ⟨s.pc, maxInstrLength, .ram⟩ :: here.windows
    busFailures := here.busFailures.filter
      (fun f => !(decide (f.kind = .read ∧ (f.address - s.pc).toNat < maxInstrLength))) }

end Sys2Proof.Machine
end

