-- ==== Sys2Proof/Machine/HostPort.lean ====
section
/-! DEFINITION. What the host and the other agents on the bus can do between steps (60_exceptions.md R536): the
reset port, the host_pc port, and the bus reads and writes of other agents. None of them is part of a step. -/

namespace Sys2Proof.Machine

/-- `Reset()` (70_reset_and_hazards.md R600), its power-up values as arguments (R601): it writes the
registers, reads the vector with two bus reads, pushes nothing and writes no memory. -/
def resetSession (r : ResetValues) (s : State) : StepOutcome :=
  finish <| do
    let s1 := (((((s.clearOutputs.setA r.a).setX r.x).setY r.y).setSP r.sp).setP r.p)
    let (entry, s2) ← read16 Config.resetVector s1
    return s2.setPC entry

/-- `getPC()` (00_scope.md R10). -/
def hostGetPC (s : State) : Word := s.pc

/-- `setPC(addr)`, the only way an external interrupt reaches the core (00_scope.md R10; 60_exceptions.md R511). -/
def hostSetPC (addr : Word) (s : State) : State := s.setPC addr

/-- A read another agent makes on the bus between steps, and what it is answered. What stands behind the address answers
it as it answers the core, or fails it, and the bus remembers that it was asked (20_memory.md R73, R78;
70_reset_and_hazards.md R621; log entry 8). -/
def foreignRead (addr : Word) (s : State) : Except BusFailure Byte × State :=
  match s.busRead addr .foreignRead with
  | .ok v => (.ok v, s.logAccess ⟨.foreignRead, addr, v⟩)
  | .error f => (.error f, s.logAccess ⟨.foreignRead, addr, 0x00⟩)

/-- A write another agent makes on the bus between steps, and what it is answered. What stands behind the address takes
it as it takes the core's, or fails it and stores nothing, and the bus remembers it (20_memory.md R73, R78;
60_exceptions.md R536; log entry 8). -/
def foreignWrite (addr : Word) (v : Byte) (s : State) : Except BusFailure Unit × State :=
  match s.busWrite addr v .foreignWrite with
  | .ok m => (.ok (), (s.setMem m).logAccess ⟨.foreignWrite, addr, v⟩)
  | .error f => (.error f, s.logAccess ⟨.foreignWrite, addr, v⟩)

end Sys2Proof.Machine
end

