-- ==== Sys2Proof/Machine/Session.lean ====
section
/-! DEFINITION. A session: what the host and the other agents do to the core, one event after the other and none inside
a step (60_exceptions.md R536; 70_reset_and_hazards.md R603, R621; 20_memory.md R73), what each answers, and what the
next one finds, a fault or not. -/

namespace Sys2Proof.Machine

/-- One row of 60_exceptions.md R536, each of which comes between steps or is one: the ports of the host, and another
agent's access to the bus (70_reset_and_hazards.md R621). -/
inductive Event where
  | reset (r : ResetValues)
  | step
  | getPC
  | setPC (addr : Word)
  | foreignRead (addr : Word)
  | foreignWrite (addr : Word) (v : Byte)
  deriving DecidableEq, Repr

/-- Whether the host may request a step (60_exceptions.md R536; 93_implementation_defined.md U13, U14). -/
inductive Phase where
  /-- No reset has succeeded yet, or the last one failed (70_reset_and_hazards.md R600). -/
  | notStarted
  /-- After a reset that succeeded. -/
  | running
  /-- A step ended with BusFault and no reset has succeeded since. -/
  | afterBusFault
  deriving DecidableEq, Repr

/-- A session between two events: the machine, and whether a step may be requested. -/
structure Session where
  core  : State
  phase : Phase
  deriving DecidableEq, Repr

/-- What the spec leaves unspecified after a BusFault: the registers, and whether a write that the bus failed was taken
all the same (60_exceptions.md R503). -/
structure Unspecified where
  a      : Byte
  x      : Byte
  y      : Byte
  sp     : Byte
  p      : Byte
  pc     : Word
  landed : Bool
  deriving DecidableEq, Repr, Inhabited

end Sys2Proof.Machine

/-- What a BusFault leaves unspecified, for the event it ended and the state that one began in. A FREE VALUE: it has no
body, so a proof holds whatever it is (60_exceptions.md R503; log entry 5). -/
opaque Sys2Proof.Config.afterBusFault : Sys2Proof.Machine.State → Sys2Proof.Machine.Event → Sys2Proof.Machine.Unspecified

namespace Sys2Proof.Machine

/-- The state after a BusFault: what the bus served before it is not undone, the bus remembers the access it failed, no
diagnostic and no cycle count is reported, and the rest is unspecified (60_exceptions.md R503; 70_reset_and_hazards.md
R613; 20_memory.md R78). -/
def State.afterBusFault (s : State) (u : Unspecified) (left : BusLeft) : State :=
  let t : State :=
    { s with
      a := u.a, x := u.x, y := u.y, sp := u.sp, p := u.p, pc := u.pc
      mem := left.mem
      busHistory := s.asked
      cycles := none
      diags := []
      accesses := left.accesses ++ [left.failed] }
  if left.failed.kind = .write ∧ u.landed then t.setMem (t.stored left.failed.address left.failed.value) else t

/-- What an event answers. A step is accepted only in a session that a reset started and no BusFault broke
(60_exceptions.md R536). A failed access of another agent is that agent's concern (log entry 8). -/
def act (e : Event) (x : Session) : StepOutcome :=
  match e with
  | .reset r => resetSession r x.core
  | .step =>
    match x.phase with
    | .notStarted => .refused .stepBeforeReset
    | .running => step x.core
    | .afterBusFault => .refused .stepAfterBusFault
  | .getPC => .next x.core
  | .setPC addr => .next (hostSetPC addr x.core)
  | .foreignRead addr => .next (foreignRead addr x.core).2
  | .foreignWrite addr v => .next (foreignWrite addr v x.core).2

/-- The phase after an event that ends so. -/
def Phase.after (p : Phase) : Event → StepOutcome → Phase
  | .reset _, .next _ => .running
  | .reset _, _ => .notStarted
  | .step, .fault (.busFault _ _) => .afterBusFault
  | _, _ => p

/-- The state an event leaves: after DecodeFault the unchanged state with PC restored, from which the host may go on
(60_exceptions.md R501); a request that is not accepted leaves everything. -/
def stateAfter (e : Event) (s : State) : StepOutcome → State
  | .next t => t
  | .fault (.decodeFault _ _ left) => left
  | .fault (.busFault _ left) => s.afterBusFault (Config.afterBusFault s e) left
  | .fault (.illegalMode _) => s
  | .refused _ => s

/-- One event of a session. -/
def Session.next (x : Session) (e : Event) : Session :=
  ⟨stateAfter e x.core (act e x), x.phase.after e (act e x)⟩

/-- The events one at a time, in the order the scheduler gives them (70_reset_and_hazards.md R621): what each answers, in
order, and the session after the last. -/
def session : List Event → Session → List StepOutcome × Session
  | [], x => ([], x)
  | e :: es, x =>
    let (answers, y) := session es (x.next e)
    (act e x :: answers, y)

end Sys2Proof.Machine
end

