-- ==== Sys2Proof/Safety.lean ====
section
/-! DEFINITION. The terms the claims use: the canonical form as an invariant, the plain-RAM bus, frames, what
a bus answers to a list of accesses, the cycle table, what the instruction rules list as written, and states no program can tell apart. -/

namespace Sys2Proof.Machine

/-- The invariant of the model: memory is in canonical form. -/
def State.wf (s : State) : Bool := s.mem.wf

/-- The plain-RAM bus: RAM behind every address, and no access fails (20_memory.md R78; 60_exceptions.md R503). -/
abbrev State.plainRam (s : State) : Prop := s.busFailures = [] ∧ s.windows = []

/-- What of the bus no instruction changes: what stands where, the accesses it always fails, and what it was
asked before this step. -/
def State.busSetup (s : State) : List BusWindow × List BusFailure × List BusAccess :=
  (s.windows, s.busFailures, s.busHistory)

/-- What an instruction leaves unchanged: every register but those in `regs`, every flag but those in
`flags`, every byte of memory but those at the addresses in `stored`, and the bus's set-up. PC is not spoken of. -/
structure Frame (regs : List Reg) (flags : List Flag) (stored : List Word) (s t : State) : Prop where
  registers : ∀ r, r ∉ regs → t.reg r = s.reg r
  statusBits : ∀ f, f ∉ flags → t.flag f = s.flag f
  memory : ∀ a, a ∉ stored → t.readByte a = s.readByte a
  bus : t.busSetup = s.busSetup

/-- Nothing but a failed bus access stops the instruction: "Faults: BusFault only" of the instruction rules. -/
def OnlyBusFaults (i : Instr) (s : State) : Prop := ∀ f, exec i s = .fault f → ∃ b left, f = .busFault b left

/-- The opcode bytes and modes of a mnemonic are exactly these. -/
def HasForms (mn : Mnemonic) (forms : List (Byte × Mode)) : Prop :=
  ∀ op mode, (op, mode) ∈ forms ↔ ∃ i : Instr, i.mnemonic = mn ∧ i.opcode = op ∧ i.mode = mode

/-- The 105 bytes with no instruction (30_encoding.md R112). -/
def unassignedBytes : List Byte :=
  [0x02, 0x03, 0x04, 0x07, 0x0B, 0x0C, 0x0F, 0x12, 0x13, 0x14, 0x17, 0x1A, 0x1B, 0x1C, 0x1F] ++
  [0x22, 0x23, 0x27, 0x2B, 0x2F, 0x32, 0x33, 0x34, 0x37, 0x3A, 0x3B, 0x3C, 0x3F, 0x42, 0x43] ++
  [0x44, 0x47, 0x4B, 0x4F, 0x52, 0x53, 0x54, 0x57, 0x5A, 0x5B, 0x5C, 0x5F, 0x62, 0x63, 0x64] ++
  [0x67, 0x6B, 0x6F, 0x72, 0x73, 0x74, 0x77, 0x7A, 0x7B, 0x7C, 0x7F, 0x80, 0x82, 0x83, 0x87] ++
  [0x89, 0x8B, 0x8F, 0x92, 0x93, 0x97, 0x9B, 0x9C, 0x9E, 0x9F, 0xA3, 0xA7, 0xAB, 0xAF, 0xB2] ++
  [0xB3, 0xB7, 0xBB, 0xBF, 0xC2, 0xC3, 0xC7, 0xCB, 0xCF, 0xD2, 0xD3, 0xD4, 0xD7, 0xDA, 0xDB] ++
  [0xDC, 0xDF, 0xE2, 0xE3, 0xE7, 0xEB, 0xEF, 0xF2, 0xF3, 0xF4, 0xF7, 0xFA, 0xFB, 0xFC, 0xFF]

/-! ### The bus -/

/-- The reads that fetching these bytes at `a`, `a + 1`, … makes. -/
def fetchTrace (a : Word) : List Byte → List BusAccess
  | [] => []
  | b :: bs => ⟨.read, a, b⟩ :: fetchTrace (a + 1) bs

/-- One access of the core: the bus moved on, or the failure it reports, or `none` when it answers a read with another
byte. An access of another agent is none of the core's (20_memory.md R73). -/
def State.serveOne (s : State) (acc : BusAccess) : Except (Option BusFailure) State :=
  match acc.kind with
  | .read =>
    match s.busRead acc.address with
    | .ok v => if v = acc.value then .ok (s.logAccess acc) else .error none
    | .error f => .error (some f)
  | .write =>
    match s.busWrite acc.address acc.value with
    | .ok m => .ok ((s.setMem m).logAccess acc)
    | .error f => .error (some f)
  | .foreignRead | .foreignWrite => .error none

/-- A list of the core's accesses, the first first, up to one that the bus fails or answers with another byte. -/
def State.serve (s : State) : List BusAccess → Except (Option BusFailure) State
  | [] => .ok s
  | acc :: tr =>
    match s.serveOne acc with
    | .ok s1 => s1.serve tr
    | .error e => .error e

/-- The state with another state's bus: its memory, its windows, its failures and what it was asked. -/
def State.onBusOf (s bus : State) : State :=
  { s with
    mem := bus.mem
    windows := bus.windows
    busFailures := bus.busFailures
    busHistory := bus.busHistory
    accesses := bus.accesses }

/-- The bus fails this access now, with this report. -/
def State.fails (s : State) (f : BusFailure) : Prop :=
  (f.kind = .read ∧ s.busRead f.address = .error f) ∨ (f.kind = .write ∧ ∃ v, s.busWrite f.address v = .error f)

/-- The first access of a list that a list of failures names (60_exceptions.md R512). -/
def firstFailure (fs : List BusFailure) : List BusAccess → Option BusFailure
  | [] => none
  | acc :: tr =>
    match fs.find? (fun f => decide (f.kind = acc.kind ∧ f.address = acc.address)) with
    | some f => some f
    | none => firstFailure fs tr

/-! ### Cycle counts -/

/-- The row of a mnemonic in the table of 70_reset_and_hazards.md R610, cell by cell, but for the column `rel` (R612):
the mode, the base count, and whether the cell is marked `+` (R611). exec does not read it. -/
def cycleCells : Mnemonic → List (Mode × Nat × Bool)
  | .adc => [(.immediate, 2, false), (.zeroPage, 3, false), (.zeroPageIndexedX, 4, false), (.absolute, 4, false),
      (.absoluteIndexedX, 4, true), (.absoluteIndexedY, 4, true), (.indirectX, 6, false), (.indirectY, 5, true)]
  | .and => [(.immediate, 2, false), (.zeroPage, 3, false), (.zeroPageIndexedX, 4, false), (.absolute, 4, false),
      (.absoluteIndexedX, 4, true), (.absoluteIndexedY, 4, true), (.indirectX, 6, false), (.indirectY, 5, true)]
  | .asl => [(.accumulator, 2, false), (.zeroPage, 5, false), (.zeroPageIndexedX, 6, false), (.absolute, 6, false),
      (.absoluteIndexedX, 7, false)]
  | .bit => [(.zeroPage, 3, false), (.absolute, 4, false)]
  | .brk => [(.implied, 7, false)]
  | .clc => [(.implied, 2, false)]
  | .cld => [(.implied, 2, false)]
  | .cli => [(.implied, 2, false)]
  | .clv => [(.implied, 2, false)]
  | .cmp => [(.immediate, 2, false), (.zeroPage, 3, false), (.zeroPageIndexedX, 4, false), (.absolute, 4, false),
      (.absoluteIndexedX, 4, true), (.absoluteIndexedY, 4, true), (.indirectX, 6, false), (.indirectY, 5, true)]
  | .cpx => [(.immediate, 2, false), (.zeroPage, 3, false), (.absolute, 4, false)]
  | .cpy => [(.immediate, 2, false), (.zeroPage, 3, false), (.absolute, 4, false)]
  | .dec => [(.zeroPage, 5, false), (.zeroPageIndexedX, 6, false), (.absolute, 6, false),
      (.absoluteIndexedX, 7, false)]
  | .dex => [(.implied, 2, false)]
  | .dey => [(.implied, 2, false)]
  | .eor => [(.immediate, 2, false), (.zeroPage, 3, false), (.zeroPageIndexedX, 4, false), (.absolute, 4, false),
      (.absoluteIndexedX, 4, true), (.absoluteIndexedY, 4, true), (.indirectX, 6, false), (.indirectY, 5, true)]
  | .inc => [(.zeroPage, 5, false), (.zeroPageIndexedX, 6, false), (.absolute, 6, false),
      (.absoluteIndexedX, 7, false)]
  | .inx => [(.implied, 2, false)]
  | .iny => [(.implied, 2, false)]
  | .jmp => [(.absolute, 3, false), (.absoluteIndirect, 5, false)]
  | .jsr => [(.absolute, 6, false)]
  | .lda => [(.immediate, 2, false), (.zeroPage, 3, false), (.zeroPageIndexedX, 4, false), (.absolute, 4, false),
      (.absoluteIndexedX, 4, true), (.absoluteIndexedY, 4, true), (.indirectX, 6, false), (.indirectY, 5, true)]
  | .ldx => [(.immediate, 2, false), (.zeroPage, 3, false), (.zeroPageIndexedY, 4, false), (.absolute, 4, false),
      (.absoluteIndexedY, 4, true)]
  | .ldy => [(.immediate, 2, false), (.zeroPage, 3, false), (.zeroPageIndexedX, 4, false), (.absolute, 4, false),
      (.absoluteIndexedX, 4, true)]
  | .lsr => [(.accumulator, 2, false), (.zeroPage, 5, false), (.zeroPageIndexedX, 6, false), (.absolute, 6, false),
      (.absoluteIndexedX, 7, false)]
  | .nop => [(.implied, 2, false)]
  | .ora => [(.immediate, 2, false), (.zeroPage, 3, false), (.zeroPageIndexedX, 4, false), (.absolute, 4, false),
      (.absoluteIndexedX, 4, true), (.absoluteIndexedY, 4, true), (.indirectX, 6, false), (.indirectY, 5, true)]
  | .pha => [(.implied, 3, false)]
  | .php => [(.implied, 3, false)]
  | .pla => [(.implied, 4, false)]
  | .plp => [(.implied, 4, false)]
  | .rol => [(.accumulator, 2, false), (.zeroPage, 5, false), (.zeroPageIndexedX, 6, false), (.absolute, 6, false),
      (.absoluteIndexedX, 7, false)]
  | .ror => [(.accumulator, 2, false), (.zeroPage, 5, false), (.zeroPageIndexedX, 6, false), (.absolute, 6, false),
      (.absoluteIndexedX, 7, false)]
  | .rti => [(.implied, 6, false)]
  | .rts => [(.implied, 6, false)]
  | .sbc => [(.immediate, 2, false), (.zeroPage, 3, false), (.zeroPageIndexedX, 4, false), (.absolute, 4, false),
      (.absoluteIndexedX, 4, true), (.absoluteIndexedY, 4, true), (.indirectX, 6, false), (.indirectY, 5, true)]
  | .sec => [(.implied, 2, false)]
  | .sed => [(.implied, 2, false)]
  | .sei => [(.implied, 2, false)]
  | .sta => [(.zeroPage, 3, false), (.zeroPageIndexedX, 4, false), (.absolute, 4, false),
      (.absoluteIndexedX, 5, false), (.absoluteIndexedY, 5, false), (.indirectX, 6, false), (.indirectY, 6, false)]
  | .stx => [(.zeroPage, 3, false), (.zeroPageIndexedY, 4, false), (.absolute, 4, false)]
  | .sty => [(.zeroPage, 3, false), (.zeroPageIndexedX, 4, false), (.absolute, 4, false)]
  | .tax => [(.implied, 2, false)]
  | .tay => [(.implied, 2, false)]
  | .tsx => [(.implied, 2, false)]
  | .txa => [(.implied, 2, false)]
  | .txs => [(.implied, 2, false)]
  | .tya => [(.implied, 2, false)]
  | .bcc | .bcs | .beq | .bmi | .bne | .bpl | .bvc | .bvs => []

/-! ### What the rules list as written -/

/-- The flags each instruction writes (10_state.md R36); the others it leaves unchanged. -/
def flagsWritten : Mnemonic → List Flag
  | .adc | .sbc => [.c, .z, .v, .n]
  | .asl | .lsr | .rol | .ror | .cmp | .cpx | .cpy => [.c, .z, .n]
  | .clc | .sec => [.c]
  | .lda | .ldx | .ldy | .tax | .tay | .tsx | .txa | .tya | .pla | .inc | .dec | .inx | .iny | .dex | .dey
  | .and | .ora | .eor => [.z, .n]
  | .bit => [.z, .v, .n]
  | .clv => [.v]
  | .cld | .sed => [.d]
  | .cli | .sei | .brk => [.i]
  | .plp | .rti => [.c, .z, .i, .d, .b, .u, .v, .n]
  | .sta | .stx | .sty | .txs | .pha | .php | .jmp | .jsr | .rts | .nop
  | .bcc | .bcs | .beq | .bmi | .bne | .bpl | .bvc | .bvs => []

/-- The registers each instruction writes in a mode (10_state.md R31, R32, R34): the shifts write A only in
their accumulator form. -/
def regsWritten : Mnemonic → Mode → List Reg
  | .lda, _ | .txa, _ | .tya, _ | .adc, _ | .sbc, _ | .and, _ | .ora, _ | .eor, _ => [.a]
  | .pla, _ => [.a, .sp]
  | .asl, m | .lsr, m | .rol, m | .ror, m => if m = .accumulator then [.a] else []
  | .ldx, _ | .tax, _ | .tsx, _ | .inx, _ | .dex, _ => [.x]
  | .ldy, _ | .tay, _ | .iny, _ | .dey, _ => [.y]
  | .txs, _ | .pha, _ | .php, _ | .plp, _ | .jsr, _ | .rts, _ | .brk, _ | .rti, _ => [.sp]
  | .sta, _ | .stx, _ | .sty, _ | .inc, _ | .dec, _ | .cmp, _ | .cpx, _ | .cpy, _ | .bit, _
  | .bcc, _ | .bcs, _ | .beq, _ | .bmi, _ | .bne, _ | .bpl, _ | .bvc, _ | .bvs, _
  | .clc, _ | .cld, _ | .cli, _ | .clv, _ | .sec, _ | .sed, _ | .sei, _ | .jmp, _ | .nop, _ => []

/-- The instructions that write PC themselves (10_state.md R42; files 47 and 49). -/
def transfersControl : Mnemonic → Bool
  | .bcc | .bcs | .beq | .bmi | .bne | .bpl | .bvc | .bvs | .jmp | .jsr | .rts | .brk | .rti => true
  | _ => false

/-! ### States that differ in bits of P -/

/-- Two states equal in everything but the bits of P in `mask`. -/
def AgreeOutside (mask : Byte) (s t : State) : Prop :=
  t = { s with p := t.p } ∧ s.p &&& ~~~mask = t.p &&& ~~~mask

/-- Two faults of one kind that record the same; the states after a DecodeFault agree outside `mask`. -/
def FaultsAgree (mask : Byte) : Fault → Fault → Prop
  | .decodeFault op a s, .decodeFault op' a' t => op = op' ∧ a = a' ∧ AgreeOutside mask s t
  | f, g => f = g

/-- Two outcomes of one kind: next states that agree outside `mask`, or faults that do, or the same refusal. -/
def OutcomesAgree (mask : Byte) : StepOutcome → StepOutcome → Prop
  | .next s, .next t => AgreeOutside mask s t
  | .fault f, .fault g => FaultsAgree mask f g
  | .refused r, .refused q => r = q
  | _, _ => False

end Sys2Proof.Machine
end

