-- ==== Sys2Proof/Certificates/Slice0/Obligations.lean ====
section
/-! DEFINITION. The statements for the provers. Each is about every state and every operand; `i.mnemonic = …`
ranges over all the constructors of that mnemonic, every addressing mode it has. The bus is a parameter of the model
(20_memory.md R78): what stands behind each address, the accesses that always fail, and the free values of Config that
answer for what is no memory (log entry 2). `plainRam` is R78's plain-RAM bus. A statement without it, or without
`windows = []`, holds on any bus; `TraceAccountsForMemory` and `FirstFailingAccessEndsTheInstruction` say what a result
on one bus says of another. The opcode bytes in `HasForms` are those the instruction rules list; the byte values are the
spec's own decision D2 (log entry 10), and so is every statement with a `HasForms` clause in that clause. -/

open Sys2Proof Sys2Proof.Machine

/-! ### Encoding -/

/-- One word of each family, its bits written out from 30_encoding.md R111 and R102, decodes to the instruction
it stands for. The byte values are the spec's decision D2. -/
def Obligations.WrittenOutWordsDecode : Prop :=
  decode [0b10101001, 0b10000000] = .ok (.ldaImm 0x80, []) ∧
  decode [0b10001101, 0b00110100, 0b00010010] = .ok (.staAbs 0x1234, []) ∧
  decode [0b10111010] = .ok (.tsx, []) ∧
  decode [0b01110001, 0b00010000] = .ok (.adcIndY 0x10, []) ∧
  decode [0b11111110, 0b00000000, 0b00100000] = .ok (.incAbsX 0x2000, []) ∧
  decode [0b01101010] = .ok (.rorAcc, []) ∧
  decode [0b01000001, 0b00100000] = .ok (.eorIndX 0x20, []) ∧
  decode [0b11100100, 0b00010000] = .ok (.cpxZp 0x10, []) ∧
  decode [0b01110000, 0b11111110] = .ok (.bvs 0xFE, []) ∧
  decode [0b11111000] = .ok (.sed, []) ∧
  decode [0b01101100, 0b11111111, 0b00000010] = .ok (.jmpInd 0x02FF, []) ∧
  decode [0b10010110, 0b11111111] = .ok (.stxZpY 0xFF, []) ∧
  decode [0b00000010] = .error (.unassigned 0x02)

/-- Decoding what the encoder writes gives the instruction back, whatever bytes follow: no bit of an operand
is dropped, and the opcode bytes of the instruction rules (files 40 to 49) agree with the opcode map (R111; the byte values are the
spec's decision D2). -/
def Obligations.DecodeOfEncodeIsTheInstruction : Prop :=
  ∀ (i : Instr) (rest : List Byte), decode (encode i ++ rest) = .ok (i, rest)

/-- The other direction: bytes that decode to an instruction are its encoding, so each instruction has one
(30_encoding.md R100, R111; the byte values are the spec's decision D2). -/
def Obligations.EncodeOfDecodeIsTheBytes : Prop :=
  ∀ (bs : List Byte) (i : Instr) (rest : List Byte), decode bs = .ok (i, rest) → bs = encode i ++ rest

/-! ### Fetch, decode, dispatch -/

/-- When the bus serves the bytes of `i` from PC on, a step is exec of `i` with PC past those bytes, the outputs of the
step before cleared and the fetches in the trace (30_encoding.md R110). The second clause says it for RAM behind every
address: the bytes of memory at PC decode to `i`. -/
def Obligations.StepRunsTheDecodedInstruction : Prop :=
  (∀ (s u : State) (i : Instr),
    s.clearOutputs.serve (fetchTrace s.pc (encode i)) = .ok u →
    u.accesses = fetchTrace s.pc (encode i) ∧
    step s = exec i { u with pc := s.pc + BitVec.ofNat 16 i.length }) ∧
  (∀ (s : State) (i : Instr) (rest : List Byte), s.windows = [] →
    decode (s.bytesAt s.pc maxInstrLength) = .ok (i, rest) →
    (∀ acc ∈ fetchTrace s.pc (encode i), s.busFailure .read acc.address = none) →
    step s = exec i
      { s with
        pc := s.pc + BitVec.ofNat 16 i.length
        busHistory := s.asked
        cycles := none
        diags := []
        accesses := fetchTrace s.pc (encode i) })

/-- A step raises DecodeFault, with the byte and its address, when the byte the bus gives at PC is one of the 105 that
have no instruction, and only then. It leaves the state as it was, PC with it, but for the one read and the cleared
outputs, and there the session goes on (30_encoding.md R110, R112; 60_exceptions.md R501, R536; which bytes they are is
the spec's decision D2; that the outputs stand in the state is log entry 3). -/
def Obligations.DecodeFaultExactlyOnUnassignedBytes : Prop :=
  ∀ (s : State) (op : Byte), s.busRead s.pc = .ok op →
    (op ∈ unassignedBytes → ∃ t, step s = .fault (.decodeFault op s.pc t) ∧
      t = { s with busHistory := s.asked, cycles := none, diags := [], accesses := [⟨.read, s.pc, op⟩] } ∧
      Session.next ⟨s, .running⟩ .step = ⟨t, .running⟩) ∧
    (op ∉ unassignedBytes → ∀ op' at' t, step s ≠ .fault (.decodeFault op' at' t))

/-- Fetch reads the byte at PC, then increments PC modulo 65536, and changes nothing else; a failed read ends it with
BusFault, whatever was served before it kept (20_memory.md R63, R61; 60_exceptions.md R503; what the bus answers is R78's
parameter, log entry 2, and the trace is log entry 3; what the fault records is log entry 5). -/
def Obligations.FetchReadsThenIncrements : Prop :=
  ∀ s : State,
    (∀ b, s.busRead s.pc = .ok b →
      fetch s = .ok (b, { s with pc := s.pc + 1, accesses := s.accesses ++ [⟨.read, s.pc, b⟩] })) ∧
    (∀ f, s.busRead s.pc = .error f → fetch s = .error (.busFault f ⟨s.mem, s.accesses, ⟨.read, s.pc, 0x00⟩⟩))

/-- An instruction placed by `withFetchWord` is what the next step runs, on the same registers, with PC past
its bytes. It is so on any bus: the placing puts RAM
behind them and is the model's own (log entry 6). -/
def Obligations.PlacedInstructionRunsNext : Prop :=
  ∀ (s : State) (nbits w : Nat) (i : Instr), decodeTableWord nbits w = some i →
    ∃ s1, step (s.withFetchWord nbits w) = exec i s1 ∧
      s1.pc = s.pc + BitVec.ofNat 16 i.length ∧ s1.p = s.p ∧ ∀ r, s1.reg r = s.reg r

/-! ### Memory, bus and stack -/

/-- MemRead is one read of the bus and MemWrite one write, neither touches a register, and a failure the bus
reports ends the step there with BusFault, whatever was served before it kept (20_memory.md R61, R62; 60_exceptions.md
R503; what the fault records is log entry 5). The last clauses say what the bus may be (R78; the
windows and the list of failures are log entry 2, the trace log entry 3): an access it always fails; RAM; memory whose
writes are ignored; a mirror; and what is no memory, whose answer, to a read and to a write, depends on everything the
bus has been asked and on nothing else of the state. -/
def Obligations.BusReadsAndWritesOneByte : Prop :=
  ∀ (a : Word) (v : Byte) (s : State),
    (∀ b, s.busRead a = .ok b →
      memRead a s = .ok (b, { s with accesses := s.accesses ++ [⟨.read, a, b⟩] })) ∧
    (∀ f, s.busRead a = .error f → memRead a s = .error (.busFault f ⟨s.mem, s.accesses, ⟨.read, a, 0x00⟩⟩)) ∧
    (∀ m, s.busWrite a v = .ok m →
      memWrite a v s = .ok { s with mem := m, accesses := s.accesses ++ [⟨.write, a, v⟩] }) ∧
    (∀ f, s.busWrite a v = .error f → memWrite a v s = .error (.busFault f ⟨s.mem, s.accesses, ⟨.write, a, v⟩⟩)) ∧
    (∀ f, s.busFailure .read a = some f → s.busRead a = .error f) ∧
    (∀ f, s.busFailure .write a = some f → s.busWrite a v = .error f) ∧
    (s.busFailure .read a = none →
      (s.behind a = .ram ∨ s.behind a = .readOnly → s.busRead a = .ok (s.readByte a)) ∧
      (∀ b, s.behind a = .redirect b → s.busRead a = .ok (s.readByte b)) ∧
      (s.behind a = .external → ∀ t : State, t.behind a = .external → t.busFailure .read a = none →
        t.asked = s.asked → t.busRead a = s.busRead a)) ∧
    (s.busFailure .write a = none →
      (s.behind a = .ram → s.busWrite a v = .ok (s.writeByte a v).mem) ∧
      (s.behind a = .readOnly → s.busWrite a v = .ok s.mem) ∧
      (∀ b, s.behind a = .redirect b → s.busWrite a v = .ok (s.writeByte b v).mem) ∧
      (s.behind a = .external → (∀ m, s.busWrite a v = .ok m → m = s.mem) ∧
        ∀ t : State, t.behind a = .external → t.busFailure .write a = none → t.asked = s.asked →
          ∀ f, t.busWrite a v = .error f ↔ s.busWrite a v = .error f)) ∧
    (s.windows = [] → s.behind a = .ram)

/-- A byte written is the byte read there, and every other address reads as before: of memory, and so of the plain-RAM
bus through MemWrite and MemRead (20_memory.md R78, R73). So it is when another agent writes it between steps, and
another agent's read there gives that byte; on any bus such a write or read leaves every register and output of the core
but what the bus remembers, and a read memory too (20_memory.md R73; 70_reset_and_hazards.md R621; that foreign accesses
are operations beside the step is log entry 8, the bus log entry 2, the trace log entry 3). -/
def Obligations.ReadAfterWrite : Prop :=
  ∀ (s : State) (a : Word) (v : Byte),
    ((s.writeByte a v).readByte a = v ∧ ∀ b, b ≠ a → (s.writeByte a v).readByte b = s.readByte b) ∧
    (s.plainRam → ∃ t, memWrite a v s = .ok t ∧ t.busRead a = .ok v ∧ ∀ b, b ≠ a → t.busRead b = s.busRead b) ∧
    (s.plainRam → ∃ t, foreignWrite a v s = (.ok (), t) ∧ t.busRead a = .ok v ∧ (foreignRead a t).1 = .ok v ∧
      ∀ b, b ≠ a → t.busRead b = s.busRead b) ∧
    (∃ m, (foreignWrite a v s).2 = { s with mem := m, accesses := s.accesses ++ [⟨.foreignWrite, a, v⟩] }) ∧
    (∃ b, (foreignRead a s).2 = { s with accesses := s.accesses ++ [⟨.foreignRead, a, b⟩] })

/-- Push: a diagnostic at SP = 0xFF, a write at 0x0100 + SP, then SP + 1 modulo 256; a failed write ends it with
BusFault (20_memory.md R64, R62; what the fault records is log entry 5). What the write does is R78's parameter, and the
last clause says it for plain RAM (log entry 2); the diagnostics are a list in order (the spec's decision D22, log entry 11). -/
def Obligations.PushWritesThenIncrements : Prop :=
  ∀ (v : Byte) (s : State),
    (stackAddress s.sp).toNat = 0x0100 + s.sp.toNat ∧
    (∀ m, s.busWrite (stackAddress s.sp) v = .ok m → push v s = .ok
      { s with
        mem := m
        sp := s.sp + 1
        diags := s.diags ++ (if s.sp = 0xFF then [.stackOverflow] else [])
        accesses := s.accesses ++ [⟨.write, stackAddress s.sp, v⟩] }) ∧
    (∀ f, s.busWrite (stackAddress s.sp) v = .error f → push v s =
      .error (.busFault f ⟨s.mem, s.accesses, ⟨.write, stackAddress s.sp, v⟩⟩)) ∧
    (s.plainRam → ∃ t, push v s = .ok t ∧ t.readByte (stackAddress s.sp) = v ∧ Frame [.sp] [] [stackAddress s.sp] s t)

/-- Pop: a diagnostic at SP = 0x00, SP - 1 modulo 256, then a read at 0x0100 + SP; a failed read ends it with BusFault
(20_memory.md R65, R61; what the fault records is log entry 5). What the read gives is R78's parameter, and the last clause says it for plain RAM (log entry
2); the diagnostics are a list in order (the spec's decision D22, log entry 11). -/
def Obligations.PopDecrementsThenReads : Prop :=
  ∀ s : State,
    (∀ b, s.busRead (stackAddress (s.sp - 1)) = .ok b → pop s = .ok (b,
      { s with
        sp := s.sp - 1
        diags := s.diags ++ (if s.sp = 0x00 then [.stackUnderflow] else [])
        accesses := s.accesses ++ [⟨.read, stackAddress (s.sp - 1), b⟩] })) ∧
    (∀ f, s.busRead (stackAddress (s.sp - 1)) = .error f → pop s =
      .error (.busFault f ⟨s.mem, s.accesses, ⟨.read, stackAddress (s.sp - 1), 0x00⟩⟩)) ∧
    (s.plainRam → ∃ t, pop s = .ok (s.readByte (stackAddress (s.sp - 1)), t) ∧ Frame [.sp] [] [] s t)

/-- A stack diagnostic changes no state and does not stop the push or pop: with SP = 0xFF a push wraps SP to
0x00 after writing 0x01FF, and with SP = 0x00 a pop reads 0x01FF (20_memory.md R66; 60_exceptions.md R504; the
ordered list is the spec's decision D22). -/
def Obligations.StackWrapsWithADiagnostic : Prop :=
  ∀ (v : Byte) (s : State), s.plainRam →
    (s.sp = 0xFF → ∃ t, push v s = .ok t ∧ t.sp = 0x00 ∧ t.readByte 0x01FF = v ∧ t.diags = s.diags ++ [.stackOverflow]) ∧
    (s.sp ≠ 0xFF → ∃ t, push v s = .ok t ∧ t.diags = s.diags) ∧
    (s.sp = 0x00 → ∃ t, pop s = .ok (s.readByte 0x01FF, t) ∧ t.sp = 0xFF ∧ t.diags = s.diags ++ [.stackUnderflow]) ∧
    (s.sp ≠ 0x00 → ∃ v' t, pop s = .ok (v', t) ∧ t.diags = s.diags)

/-! ### The status register and the resolver -/

/-- setFlag changes exactly one bit of P, and getFlag reads one bit (10_state.md R33): bit 0 is Carry, 1 Zero, 2
IRQ-disable, 3 Decimal, 4 Break, 5 the unused bit, 6 Overflow, 7 Negative (the layout of R35). -/
def Obligations.SetFlagChangesOneBit : Prop :=
  ∀ (p : Byte) (f : Flag) (v : Bool),
    (getFlag p .c = p.getLsbD 0 ∧ getFlag p .z = p.getLsbD 1 ∧ getFlag p .i = p.getLsbD 2 ∧
      getFlag p .d = p.getLsbD 3 ∧ getFlag p .b = p.getLsbD 4 ∧ getFlag p .u = p.getLsbD 5 ∧
      getFlag p .v = p.getLsbD 6 ∧ getFlag p .n = p.getLsbD 7) ∧
    getFlag (setFlag p f v) f = v ∧ ∀ g, g ≠ f → getFlag (setFlag p f v) g = getFlag p g

/-- SetNZ: N is bit 7 of the value, Z is whether it is 0, and no other bit changes (10_state.md R40). -/
def Obligations.SetNZFromTheValue : Prop :=
  ∀ (p v : Byte),
    getFlag (setNZ p v) .n = v.getLsbD 7 ∧ getFlag (setNZ p v) .z = decide (v.toNat = 0) ∧
    ∀ f, f ≠ .n → f ≠ .z → getFlag (setNZ p v) f = getFlag p f

/-- The effective address of each mode, its page-cross indication and the pointer reads it makes, in the
arithmetic of 30_encoding.md R120 and R122. That the IndirectY pointer stays in the zero page is the spec's
decision D17. -/
def Obligations.EffectiveAddressOfEachMode : Prop :=
  ∀ s : State, s.plainRam →
    (∀ z, ∃ r, resolveAddress (.zeroPage z) s = .ok (r, s) ∧ r.ea.toNat = z.toNat ∧ r.crossed = false) ∧
    (∀ z, ∃ r, resolveAddress (.zeroPageIndexedX z) s = .ok (r, s) ∧
      r.ea.toNat = (z.toNat + s.x.toNat) % 256 ∧ r.crossed = false) ∧
    (∀ z, ∃ r, resolveAddress (.zeroPageIndexedY z) s = .ok (r, s) ∧
      r.ea.toNat = (z.toNat + s.y.toNat) % 256 ∧ r.crossed = false) ∧
    (∀ w, ∃ r, resolveAddress (.absolute w) s = .ok (r, s) ∧ r.ea = w ∧ r.crossed = false) ∧
    (∀ w, ∃ r, resolveAddress (.absoluteIndexedX w) s = .ok (r, s) ∧
      r.ea.toNat = (w.toNat + s.x.toNat) % 65536 ∧ r.crossed = decide (w.toNat / 256 ≠ r.ea.toNat / 256)) ∧
    (∀ w, ∃ r, resolveAddress (.absoluteIndexedY w) s = .ok (r, s) ∧
      r.ea.toNat = (w.toNat + s.y.toNat) % 65536 ∧ r.crossed = decide (w.toNat / 256 ≠ r.ea.toNat / 256)) ∧
    (∀ z, ∃ r t, resolveAddress (.indirectX z) s = .ok (r, t) ∧
      (let lo := s.readByte (BitVec.ofNat 16 ((z.toNat + s.x.toNat) % 256))
       let hi := s.readByte (BitVec.ofNat 16 ((z.toNat + s.x.toNat + 1) % 256))
       r.ea.toNat = hi.toNat * 256 + lo.toNat ∧ r.crossed = false ∧
       t = { s with accesses := s.accesses ++
              [⟨.read, BitVec.ofNat 16 ((z.toNat + s.x.toNat) % 256), lo⟩,
               ⟨.read, BitVec.ofNat 16 ((z.toNat + s.x.toNat + 1) % 256), hi⟩] })) ∧
    (∀ z, ∃ r t, resolveAddress (.indirectY z) s = .ok (r, t) ∧
      (let lo := s.readByte (BitVec.ofNat 16 z.toNat)
       let hi := s.readByte (BitVec.ofNat 16 ((z.toNat + 1) % 256))
       let base := hi.toNat * 256 + lo.toNat
       r.ea.toNat = (base + s.y.toNat) % 65536 ∧ r.crossed = decide (base / 256 ≠ r.ea.toNat / 256) ∧
       t = { s with accesses := s.accesses ++
              [⟨.read, BitVec.ofNat 16 z.toNat, lo⟩, ⟨.read, BitVec.ofNat 16 ((z.toNat + 1) % 256), hi⟩] })) ∧
    (∀ w : Word, ∃ r t, resolveAddress (.absoluteIndirect w) s = .ok (r, t) ∧
      (let hiAt := BitVec.ofNat 16 (w.toNat / 256 * 256 + (w.toNat + 1) % 256)
       r.ea.toNat = (s.readByte hiAt).toNat * 256 + (s.readByte w).toNat ∧ r.crossed = false ∧
       t = { s with accesses := s.accesses ++ [⟨.read, w, s.readByte w⟩, ⟨.read, hiAt, s.readByte hiAt⟩] }))

/-- `Operand(mode)`: Immediate is the byte itself; every other mode is the resolver's address, read once on the bus;
what stops the resolver or the read stops it (30_encoding.md R121; what a read gives is R78's parameter, log entry 2,
the trace is log entry 3, and what the fault records log entry 5). The modes the resolver does not serve get no value (R114, log entry 9, DEDUCED). -/
def Obligations.OperandIsImmediateOrRead : Prop :=
  ∀ s : State,
    (∀ v, resolveOperand (.immediate v) s = .ok (⟨v, false⟩, s)) ∧
    (∀ o r s1, o.mode ≠ .immediate → resolveAddress o s = .ok (r, s1) →
      (∀ b, s1.busRead r.ea = .ok b → resolveOperand o s = .ok (⟨b, r.crossed⟩,
        { s1 with accesses := s1.accesses ++ [⟨.read, r.ea, b⟩] })) ∧
      (∀ f, s1.busRead r.ea = .error f → resolveOperand o s =
        .error (.busFault f ⟨s1.mem, s1.accesses, ⟨.read, r.ea, 0x00⟩⟩))) ∧
    (∀ o e, o.mode ≠ .immediate → resolveAddress o s = .error e → resolveOperand o s = .error e) ∧
    (∀ o, o.mode = .accumulator ∨ o.mode = .implied ∨ o.mode = .relative →
      resolveOperand o s = .error (.illegalMode o.mode))

/-- A mode with no address is an internal error of the resolver (the fault is log entry 9, DEDUCED), and no instruction
of the opcode map ever reaches it, on any bus (30_encoding.md R114). -/
def Obligations.IllegalModeIsNeverReached : Prop :=
  (∀ s v off, resolveAddress .implied s = .error (.illegalMode .implied) ∧
    resolveAddress .accumulator s = .error (.illegalMode .accumulator) ∧
    resolveAddress (.immediate v) s = .error (.illegalMode .immediate) ∧
    resolveAddress (.relative off) s = .error (.illegalMode .relative)) ∧
  (∀ s m, step s ≠ .fault (.illegalMode m))

/-! ### Loads, stores, transfers -/

/-- A load: the register is the operand, N and Z come from the loaded value, nothing else changes. -/
def LoadLaw (mn : Mnemonic) (r : Reg) : Prop :=
  ∀ (i : Instr) (s : State), i.mnemonic = mn →
    OnlyBusFaults i s ∧
    (s.plainRam → ∃ m s1 t, resolveOperand i.operand s = .ok (m, s1) ∧ exec i s = .next t ∧
      t.reg r = m.value ∧ t.flag .n = m.value.getLsbD 7 ∧ t.flag .z = (m.value == 0) ∧
      Frame [r] [.n, .z] [] s t ∧ t.pc = s.pc ∧ t.diags = s.diags ∧ t.accesses = s1.accesses)

/-- LDA, LDX, LDY (40_loads_stores.md R201 to R203). -/
def Obligations.LoadsSetTheirRegister : Prop :=
  LoadLaw .lda .a ∧ LoadLaw .ldx .x ∧ LoadLaw .ldy .y ∧
  HasForms .lda [(0xA9, .immediate), (0xA5, .zeroPage), (0xB5, .zeroPageIndexedX), (0xAD, .absolute), (0xBD, .absoluteIndexedX), (0xB9, .absoluteIndexedY), (0xA1, .indirectX), (0xB1, .indirectY)] ∧
  HasForms .ldx [(0xA2, .immediate), (0xA6, .zeroPage), (0xB6, .zeroPageIndexedY), (0xAE, .absolute), (0xBE, .absoluteIndexedY)] ∧
  HasForms .ldy [(0xA0, .immediate), (0xA4, .zeroPage), (0xB4, .zeroPageIndexedX), (0xAC, .absolute), (0xBC, .absoluteIndexedX)]

/-- A store: the byte at the effective address is the register, and no other byte, register or flag changes;
the one access beyond the resolver's is the write. -/
def StoreLaw (mn : Mnemonic) (r : Reg) : Prop :=
  ∀ (i : Instr) (s : State), i.mnemonic = mn →
    OnlyBusFaults i s ∧
    (s.plainRam → ∃ g s1 t, resolveAddress i.operand s = .ok (g, s1) ∧ exec i s = .next t ∧
      t.readByte g.ea = s.reg r ∧ Frame [] [] [g.ea] s t ∧ t.pc = s.pc ∧ t.diags = s.diags ∧
      t.accesses = s1.accesses ++ [⟨.write, g.ea, s.reg r⟩])

/-- STA, STX, STY (40_loads_stores.md R204 to R206). -/
def Obligations.StoresWriteTheirRegister : Prop :=
  StoreLaw .sta .a ∧ StoreLaw .stx .x ∧ StoreLaw .sty .y ∧
  HasForms .sta [(0x85, .zeroPage), (0x95, .zeroPageIndexedX), (0x8D, .absolute), (0x9D, .absoluteIndexedX), (0x99, .absoluteIndexedY), (0x81, .indirectX), (0x91, .indirectY)] ∧
  HasForms .stx [(0x86, .zeroPage), (0x96, .zeroPageIndexedY), (0x8E, .absolute)] ∧
  HasForms .sty [(0x84, .zeroPage), (0x94, .zeroPageIndexedX), (0x8C, .absolute)]

/-- A transfer copies a register and sets N and Z from it; it makes no bus access and cannot stop. -/
def TransferLaw (mn : Mnemonic) (src dst : Reg) : Prop :=
  ∀ (i : Instr) (s : State), i.mnemonic = mn → ∃ t, exec i s = .next t ∧
    t.reg dst = s.reg src ∧ t.flag .n = (s.reg src).getLsbD 7 ∧ t.flag .z = (s.reg src == 0) ∧
    Frame [dst] [.n, .z] [] s t ∧ t.pc = s.pc ∧ t.diags = s.diags ∧ t.accesses = s.accesses

/-- TAX, TAY, TSX, TXA, TYA copy and set N and Z; TXS copies and sets no flag (41_transfers.md R221 to R226). -/
def Obligations.TransfersCopyARegister : Prop :=
  TransferLaw .tax .a .x ∧ TransferLaw .tay .a .y ∧ TransferLaw .tsx .sp .x ∧
  TransferLaw .txa .x .a ∧ TransferLaw .tya .y .a ∧
  (∀ (i : Instr) (s : State), i.mnemonic = .txs → ∃ t, exec i s = .next t ∧ t.sp = s.x ∧
    Frame [.sp] [] [] s t ∧ t.pc = s.pc ∧ t.diags = s.diags ∧ t.accesses = s.accesses) ∧
  HasForms .tax [(0xAA, .implied)] ∧
  HasForms .tay [(0xA8, .implied)] ∧
  HasForms .tsx [(0xBA, .implied)] ∧
  HasForms .txa [(0x8A, .implied)] ∧
  HasForms .txs [(0x9A, .implied)] ∧
  HasForms .tya [(0x98, .implied)]

/-! ### Arithmetic -/

/-- ADC and SBC share this: A and the flags C, V, N, Z come from a result byte, a carry and an overflow that
are computed from A, the operand and C; nothing else changes. -/
def ArithLaw (mn : Mnemonic) (decimal : Bool) (result : Byte → Byte → Bool → Nat) (carry : Byte → Byte → Bool → Bool)
    (overflow : Byte → Byte → Byte → Bool → Bool) : Prop :=
  ∀ (i : Instr) (s : State), i.mnemonic = mn → s.flag .d = decimal →
    OnlyBusFaults i s ∧
    (s.plainRam → ∃ m s1 t, resolveOperand i.operand s = .ok (m, s1) ∧ exec i s = .next t ∧
      t.a.toNat = result s.a m.value (s.flag .c) ∧ t.flag .c = carry s.a m.value (s.flag .c) ∧
      t.flag .v = overflow s.a m.value t.a (s.flag .c) ∧ t.flag .n = t.a.getLsbD 7 ∧ t.flag .z = (t.a == 0) ∧
      Frame [.a] [.c, .v, .n, .z] [] s t ∧ t.pc = s.pc ∧ t.diags = s.diags ∧ t.accesses = s1.accesses)

/-- ADC with D = 0: the 9-bit sum of A, the operand and C; V is set exactly when the signed sum does not fit
in -128..127 (42_arithmetic.md R240, R241; 00_scope.md R13). -/
def Obligations.AdcBinarySum : Prop :=
  ArithLaw .adc false
    (fun a m c => (a.toNat + m.toNat + c.toNat) % 256)
    (fun a m c => decide (a.toNat + m.toNat + c.toNat > 255))
    (fun a m _ c => decide (a.toInt + m.toInt + c.toNat < -128 ∨ a.toInt + m.toInt + c.toNat > 127)) ∧
  HasForms .adc [(0x69, .immediate), (0x65, .zeroPage), (0x75, .zeroPageIndexedX), (0x6D, .absolute), (0x7D, .absoluteIndexedX), (0x79, .absoluteIndexedY), (0x61, .indirectX), (0x71, .indirectY)]

/-- The decimal value of a byte, each nibble clamped to 9 (42_arithmetic.md R244, the spec's decision D14). -/
def bcdValue (b : Byte) : Nat := 10 * min (b.toNat / 16) 9 + min (b.toNat % 16) 9

/-- ADC with D = 1: the decimal sum, each nibble clamped to 9 (the spec's decision D14), N, Z and V from the
decimal result byte (the spec's decision D15) (42_arithmetic.md R241, R244). -/
def Obligations.AdcDecimalSum : Prop :=
  ArithLaw .adc true
    (fun a m c => (bcdValue a + bcdValue m + c.toNat) % 100 / 10 * 16 + (bcdValue a + bcdValue m + c.toNat) % 100 % 10)
    (fun a m c => decide (bcdValue a + bcdValue m + c.toNat > 99))
    (fun a m r _ => (a.getLsbD 7 == m.getLsbD 7) && (r.getLsbD 7 != a.getLsbD 7))

/-- SBC with D = 0: A minus the operand minus the borrow; C = 1 exactly when no borrow occurred; V is set
exactly when the signed difference does not fit in -128..127 (42_arithmetic.md R242, R240). -/
def Obligations.SbcBinaryDifference : Prop :=
  ArithLaw .sbc false
    (fun a m c => (a.toNat + 256 - m.toNat - (1 - c.toNat)) % 256)
    (fun a m c => decide (m.toNat + (1 - c.toNat) ≤ a.toNat))
    (fun a m _ c => decide (a.toInt - m.toInt - (1 - c.toNat : Nat) < -128 ∨
      a.toInt - m.toInt - (1 - c.toNat : Nat) > 127)) ∧
  HasForms .sbc [(0xE9, .immediate), (0xE5, .zeroPage), (0xF5, .zeroPageIndexedX), (0xED, .absolute), (0xFD, .absoluteIndexedX), (0xF9, .absoluteIndexedY), (0xE1, .indirectX), (0xF1, .indirectY)]

/-- SBC with D = 1: the decimal difference modulo 100, C = 1 exactly when no borrow occurred; clamp and N, Z, V
as for ADC (the spec's decisions D14, D15) (42_arithmetic.md R242, R244). -/
def Obligations.SbcDecimalDifference : Prop :=
  ArithLaw .sbc true
    (fun a m c =>
      let d := (bcdValue a + 100 - bcdValue m - (1 - c.toNat)) % 100
      d / 10 * 16 + d % 10)
    (fun a m c => decide (bcdValue m + (1 - c.toNat) ≤ bcdValue a))
    (fun a m r _ => (a.getLsbD 7 != m.getLsbD 7) && (r.getLsbD 7 != a.getLsbD 7))

/-- The arithmetic laws (42_arithmetic.md R243): SBC then ADC with the complemented carry restores A in binary
mode; both results are reduced modulo 256; the carries (the decimal ones on the clamp of decision D14); and ADC and
SBC run on all operands. -/
def Obligations.ArithmeticLaws : Prop :=
  (∀ (a m : Byte) (c : Bool), (adcBinary (sbcBinary a m c).result m (!c)).result = a) ∧
  (∀ (a m : Byte) (c : Bool),
    ((adcBinary a m c).result.toNat : Int) = ((a.toNat : Int) + m.toNat + c.toNat) % 256 ∧
    ((sbcBinary a m c).result.toNat : Int) = ((a.toNat : Int) - m.toNat - (1 - c.toNat)) % 256) ∧
  (∀ (a m : Byte) (c : Bool),
    (adcBinary a m c).carry = (BitVec.ofNat 9 (a.toNat + m.toNat + c.toNat)).getLsbD 8 ∧
    (adcDecimal a m c).carry = decide (decOfByte a + decOfByte m + c.toNat > 99) ∧
    (sbcBinary a m c).carry = decide (m.toNat + (!c).toNat ≤ a.toNat) ∧
    (sbcDecimal a m c).carry = decide (decOfByte m + (!c).toNat ≤ decOfByte a)) ∧
  (∀ (i : Instr) (s : State), i.mnemonic = .adc ∨ i.mnemonic = .sbc → s.plainRam → ∃ t, exec i s = .next t)

/-! ### Increment, decrement, shifts, logical -/

/-- A read-modify-write on memory: one read and one write of the effective address, N and Z from the result. -/
def ModifyMemoryLaw (mn : Mnemonic) (f : Byte → Byte) : Prop :=
  ∀ (i : Instr) (s : State), i.mnemonic = mn →
    OnlyBusFaults i s ∧
    (s.plainRam → ∃ g s1 t, resolveAddress i.operand s = .ok (g, s1) ∧ exec i s = .next t ∧
      t.readByte g.ea = f (s.readByte g.ea) ∧
      t.flag .n = (f (s.readByte g.ea)).getLsbD 7 ∧ t.flag .z = (f (s.readByte g.ea) == 0) ∧
      Frame [] [.n, .z] [g.ea] s t ∧ t.pc = s.pc ∧ t.diags = s.diags ∧
      t.accesses = s1.accesses ++ [⟨.read, g.ea, s.readByte g.ea⟩, ⟨.write, g.ea, f (s.readByte g.ea)⟩])

/-- INC and DEC on memory (43_incdec.md R261, R262). -/
def Obligations.IncDecMemory : Prop :=
  ModifyMemoryLaw .inc (fun v => BitVec.ofNat 8 ((v.toNat + 1) % 256)) ∧
  ModifyMemoryLaw .dec (fun v => BitVec.ofNat 8 ((v.toNat + 255) % 256)) ∧
  HasForms .inc [(0xE6, .zeroPage), (0xF6, .zeroPageIndexedX), (0xEE, .absolute), (0xFE, .absoluteIndexedX)] ∧
  HasForms .dec [(0xC6, .zeroPage), (0xD6, .zeroPageIndexedX), (0xCE, .absolute), (0xDE, .absoluteIndexedX)]

/-- A register stepped by one, N and Z from it; no bus access, cannot stop. -/
def ModifyRegLaw (mn : Mnemonic) (r : Reg) (f : Byte → Byte) : Prop :=
  ∀ (i : Instr) (s : State), i.mnemonic = mn → ∃ t, exec i s = .next t ∧
    t.reg r = f (s.reg r) ∧ t.flag .n = (f (s.reg r)).getLsbD 7 ∧ t.flag .z = (f (s.reg r) == 0) ∧
    Frame [r] [.n, .z] [] s t ∧ t.pc = s.pc ∧ t.diags = s.diags ∧ t.accesses = s.accesses

/-- INX, INY, DEX, DEY (43_incdec.md R263 to R266). -/
def Obligations.IncDecRegisters : Prop :=
  ModifyRegLaw .inx .x (fun v => BitVec.ofNat 8 ((v.toNat + 1) % 256)) ∧
  ModifyRegLaw .iny .y (fun v => BitVec.ofNat 8 ((v.toNat + 1) % 256)) ∧
  ModifyRegLaw .dex .x (fun v => BitVec.ofNat 8 ((v.toNat + 255) % 256)) ∧
  ModifyRegLaw .dey .y (fun v => BitVec.ofNat 8 ((v.toNat + 255) % 256)) ∧
  HasForms .inx [(0xE8, .implied)] ∧
  HasForms .iny [(0xC8, .implied)] ∧
  HasForms .dex [(0xCA, .implied)] ∧
  HasForms .dey [(0x88, .implied)]

/-- A shift by one position, on A with no bus access, or on memory as a read-modify-write of one address: C is
the bit shifted out, N and Z come from the result. -/
def ShiftLaw (mn : Mnemonic) (result : Byte → Bool → Byte) (carry : Byte → Bool) : Prop :=
  ∀ (i : Instr) (s : State), i.mnemonic = mn →
    OnlyBusFaults i s ∧
    (i.operand = .accumulator → ∃ t, exec i s = .next t ∧
      (let r := result s.a (s.flag .c)
       t.a = r ∧ t.flag .c = carry s.a ∧ t.flag .n = r.getLsbD 7 ∧ t.flag .z = (r == 0)) ∧
      Frame [.a] [.c, .n, .z] [] s t ∧ t.pc = s.pc ∧ t.diags = s.diags ∧ t.accesses = s.accesses) ∧
    (i.operand ≠ .accumulator → s.plainRam → ∃ g s1 t,
      resolveAddress i.operand s = .ok (g, s1) ∧ exec i s = .next t ∧
      (let v := s.readByte g.ea
       let r := result v (s.flag .c)
       t.readByte g.ea = r ∧ t.flag .c = carry v ∧ t.flag .n = r.getLsbD 7 ∧ t.flag .z = (r == 0) ∧
       t.accesses = s1.accesses ++ [⟨.read, g.ea, v⟩, ⟨.write, g.ea, r⟩]) ∧
      Frame [] [.c, .n, .z] [g.ea] s t ∧ t.pc = s.pc ∧ t.diags = s.diags)

/-- ASL, LSR, ROL, ROR (44_shifts.md R281 to R284). -/
def Obligations.ShiftsByOnePosition : Prop :=
  ShiftLaw .asl (fun v _ => v <<< 1) (fun v => v.getLsbD 7) ∧
  ShiftLaw .lsr (fun v _ => v >>> 1) (fun v => v.getLsbD 0) ∧
  ShiftLaw .rol (fun v c => (v <<< 1) ||| (BitVec.ofBool c).setWidth 8) (fun v => v.getLsbD 7) ∧
  ShiftLaw .ror (fun v c => (v >>> 1) ||| ((BitVec.ofBool c).setWidth 8 <<< 7)) (fun v => v.getLsbD 0) ∧
  HasForms .asl [(0x0A, .accumulator), (0x06, .zeroPage), (0x16, .zeroPageIndexedX), (0x0E, .absolute), (0x1E, .absoluteIndexedX)] ∧
  HasForms .lsr [(0x4A, .accumulator), (0x46, .zeroPage), (0x56, .zeroPageIndexedX), (0x4E, .absolute), (0x5E, .absoluteIndexedX)] ∧
  HasForms .rol [(0x2A, .accumulator), (0x26, .zeroPage), (0x36, .zeroPageIndexedX), (0x2E, .absolute), (0x3E, .absoluteIndexedX)] ∧
  HasForms .ror [(0x6A, .accumulator), (0x66, .zeroPage), (0x76, .zeroPageIndexedX), (0x6E, .absolute), (0x7E, .absoluteIndexedX)]

/-- A combined with the operand, N and Z from the new A; nothing else changes. -/
def LogicalLaw (mn : Mnemonic) (f : Bool → Bool → Bool) : Prop :=
  ∀ (i : Instr) (s : State), i.mnemonic = mn →
    OnlyBusFaults i s ∧
    (s.plainRam → ∃ m s1 t, resolveOperand i.operand s = .ok (m, s1) ∧ exec i s = .next t ∧
      (∀ k, k < 8 → t.a.getLsbD k = f (s.a.getLsbD k) (m.value.getLsbD k)) ∧
      t.flag .n = t.a.getLsbD 7 ∧ t.flag .z = (t.a == 0) ∧
      Frame [.a] [.n, .z] [] s t ∧ t.pc = s.pc ∧ t.diags = s.diags ∧ t.accesses = s1.accesses)

/-- AND, ORA, EOR, bit by bit (45_logical.md R301 to R303). -/
def Obligations.LogicalCombinesWithA : Prop :=
  LogicalLaw .and and ∧ LogicalLaw .ora or ∧ LogicalLaw .eor xor ∧
  HasForms .and [(0x29, .immediate), (0x25, .zeroPage), (0x35, .zeroPageIndexedX), (0x2D, .absolute), (0x3D, .absoluteIndexedX), (0x39, .absoluteIndexedY), (0x21, .indirectX), (0x31, .indirectY)] ∧
  HasForms .ora [(0x09, .immediate), (0x05, .zeroPage), (0x15, .zeroPageIndexedX), (0x0D, .absolute), (0x1D, .absoluteIndexedX), (0x19, .absoluteIndexedY), (0x01, .indirectX), (0x11, .indirectY)] ∧
  HasForms .eor [(0x49, .immediate), (0x45, .zeroPage), (0x55, .zeroPageIndexedX), (0x4D, .absolute), (0x5D, .absoluteIndexedX), (0x59, .absoluteIndexedY), (0x41, .indirectX), (0x51, .indirectY)]

/-! ### Compare and bit test -/

/-- A compare: C is `r >= m` unsigned, N and Z come from `(r - m) mod 256`; no register is written, V, D and
the carry in play no part. -/
def CompareLaw (mn : Mnemonic) (r : Reg) : Prop :=
  ∀ (i : Instr) (s : State), i.mnemonic = mn →
    OnlyBusFaults i s ∧
    (s.plainRam → ∃ m s1 t, resolveOperand i.operand s = .ok (m, s1) ∧ exec i s = .next t ∧
      t.flag .c = decide (m.value.toNat ≤ (s.reg r).toNat) ∧
      t.flag .n = (s.reg r - m.value).getLsbD 7 ∧ t.flag .z = (s.reg r == m.value) ∧
      Frame [] [.c, .n, .z] [] s t ∧ t.pc = s.pc ∧ t.diags = s.diags ∧ t.accesses = s1.accesses)

/-- CMP (46_compare_bit.md R321). -/
def Obligations.CompareAccumulator : Prop :=
  CompareLaw .cmp .a ∧
  HasForms .cmp [(0xC9, .immediate), (0xC5, .zeroPage), (0xD5, .zeroPageIndexedX), (0xCD, .absolute), (0xDD, .absoluteIndexedX), (0xD9, .absoluteIndexedY), (0xC1, .indirectX), (0xD1, .indirectY)]

/-- CPX and CPY, CMP's rule with X and Y; the two mnemonics are the spec's decision D3 (46_compare_bit.md R322,
R323). -/
def Obligations.CompareIndexRegisters : Prop :=
  CompareLaw .cpx .x ∧ CompareLaw .cpy .y ∧
  HasForms .cpx [(0xE0, .immediate), (0xE4, .zeroPage), (0xEC, .absolute)] ∧
  HasForms .cpy [(0xC0, .immediate), (0xC4, .zeroPage), (0xCC, .absolute)]

/-- BIT: N and V are bits 7 and 6 of memory, Z is whether A and memory share no bit; A is not written
(46_compare_bit.md R324). -/
def Obligations.BitTestsMemory : Prop :=
  (∀ (i : Instr) (s : State), i.mnemonic = .bit →
    OnlyBusFaults i s ∧
    (s.plainRam → ∃ m s1 t, resolveOperand i.operand s = .ok (m, s1) ∧ exec i s = .next t ∧
      t.flag .n = m.value.getLsbD 7 ∧ t.flag .v = m.value.getLsbD 6 ∧ t.flag .z = ((s.a &&& m.value) == 0) ∧
      Frame [] [.n, .v, .z] [] s t ∧ t.pc = s.pc ∧ t.diags = s.diags ∧ t.accesses = s1.accesses)) ∧
  HasForms .bit [(0x24, .zeroPage), (0x2C, .absolute)]

/-! ### Branches and flag control -/

/-- A branch on one flag: PC plus the signed displacement, modulo 65536, when the flag has the value tested,
and the next instruction otherwise; nothing else changes, no bus access, cannot stop. -/
def BranchLaw (mn : Mnemonic) (f : Flag) (val : Bool) : Prop :=
  ∀ (i : Instr) (s : State), i.mnemonic = mn → ∃ off t, i.operand = .relative off ∧ exec i s = .next t ∧
    ((t.pc.toNat : Int) = if s.flag f = val then ((s.pc.toNat : Int) + off.toInt) % 65536 else s.pc.toNat) ∧
    Frame [] [] [] s t ∧ t.diags = s.diags ∧ t.accesses = s.accesses

/-- BCC, BCS, BEQ, BMI, BNE, BPL, BVC, BVS after their displacement fetch (47_branches.md R341 to R348). -/
def Obligations.BranchesOnOneFlag : Prop :=
  BranchLaw .bcc .c false ∧ BranchLaw .bcs .c true ∧ BranchLaw .beq .z true ∧ BranchLaw .bmi .n true ∧
  BranchLaw .bne .z false ∧ BranchLaw .bpl .n false ∧ BranchLaw .bvc .v false ∧ BranchLaw .bvs .v true ∧
  HasForms .bcc [(0x90, .relative)] ∧
  HasForms .bcs [(0xB0, .relative)] ∧
  HasForms .beq [(0xF0, .relative)] ∧
  HasForms .bmi [(0x30, .relative)] ∧
  HasForms .bne [(0xD0, .relative)] ∧
  HasForms .bpl [(0x10, .relative)] ∧
  HasForms .bvc [(0x50, .relative)] ∧
  HasForms .bvs [(0x70, .relative)]

/-- One flag written with a constant, and no other bit of P; no bus access, cannot stop. -/
def FlagControlLaw (mn : Mnemonic) (f : Flag) (val : Bool) : Prop :=
  ∀ (i : Instr) (s : State), i.mnemonic = mn → ∃ t, exec i s = .next t ∧ t.flag f = val ∧
    Frame [] [f] [] s t ∧ t.pc = s.pc ∧ t.diags = s.diags ∧ t.accesses = s.accesses

/-- CLC, CLD, CLI, CLV (48_flag_control.md R361 to R364). -/
def Obligations.ClearInstructionsClearOneFlag : Prop :=
  FlagControlLaw .clc .c false ∧ FlagControlLaw .cld .d false ∧ FlagControlLaw .cli .i false ∧
  FlagControlLaw .clv .v false ∧
  HasForms .clc [(0x18, .implied)] ∧
  HasForms .cld [(0xD8, .implied)] ∧
  HasForms .cli [(0x58, .implied)] ∧
  HasForms .clv [(0xB8, .implied)]

/-- SEC, SED, SEI; the three mnemonics are the spec's decision D3 (48_flag_control.md R365 to R367). -/
def Obligations.SetInstructionsSetOneFlag : Prop :=
  FlagControlLaw .sec .c true ∧ FlagControlLaw .sed .d true ∧ FlagControlLaw .sei .i true ∧
  HasForms .sec [(0x38, .implied)] ∧
  HasForms .sed [(0xF8, .implied)] ∧
  HasForms .sei [(0x78, .implied)]

/-! ### Jumps, subroutines, stack -/

/-- JMP: PC is the effective address; Absolute reads no memory, AbsoluteIndirect reads its pointer with the
page-boundary quirk; nothing else changes (49_jumps_stack.md R380). -/
def Obligations.JumpGoesToTheEffectiveAddress : Prop :=
  (∀ (i : Instr) (s : State), i.mnemonic = .jmp →
    OnlyBusFaults i s ∧
    (∀ w, i.operand = .absolute w → ∃ t, exec i s = .next t ∧ t.pc = w ∧ Frame [] [] [] s t ∧
      t.diags = s.diags ∧ t.accesses = s.accesses) ∧
    (∀ w, i.operand = .absoluteIndirect w → s.plainRam → ∃ t, exec i s = .next t ∧
      (let hiAt := BitVec.ofNat 16 (w.toNat / 256 * 256 + (w.toNat + 1) % 256)
       t.pc.toNat = (s.readByte hiAt).toNat * 256 + (s.readByte w).toNat ∧
       t.accesses = s.accesses ++ [⟨.read, w, s.readByte w⟩, ⟨.read, hiAt, s.readByte hiAt⟩]) ∧
      Frame [] [] [] s t ∧ t.diags = s.diags)) ∧
  HasForms .jmp [(0x4C, .absolute), (0x6C, .absoluteIndirect)]

/-- JSR: the address of its last byte is pushed, high byte first and so at the lower address, then control goes
to the operand. That both target bytes are fetched before the first push is the spec's decision D20
(49_jumps_stack.md R381). -/
def Obligations.JsrPushesReturnAndJumps : Prop :=
  (∀ (i : Instr) (s : State), i.mnemonic = .jsr →
    OnlyBusFaults i s ∧
    ∃ w, i.operand = .absolute w ∧ (s.plainRam → ∃ t, exec i s = .next t ∧ t.pc = w ∧ t.sp = s.sp + 2 ∧
      (let ret := s.pc - 1
       let hi := BitVec.ofNat 8 (ret.toNat / 256)
       let lo := BitVec.ofNat 8 (ret.toNat % 256)
       t.readByte (stackAddress s.sp) = hi ∧ t.readByte (stackAddress (s.sp + 1)) = lo ∧
       t.accesses = s.accesses ++
         [⟨.write, stackAddress s.sp, hi⟩, ⟨.write, stackAddress (s.sp + 1), lo⟩]) ∧
      t.diags = s.diags ++ (if s.sp = 0xFF ∨ s.sp = 0xFE then [.stackOverflow] else []) ∧
      Frame [.sp] [] [stackAddress s.sp, stackAddress (s.sp + 1)] s t)) ∧
  HasForms .jsr [(0x20, .absolute)]

/-- RTS: the low byte, then the high byte are popped, and control goes to that address plus one
(49_jumps_stack.md R382). -/
def Obligations.RtsPopsAndIncrements : Prop :=
  (∀ (i : Instr) (s : State), i.mnemonic = .rts →
    OnlyBusFaults i s ∧
    (s.plainRam → ∃ t, exec i s = .next t ∧ t.sp = s.sp - 2 ∧
      (let lo := s.readByte (stackAddress (s.sp - 1))
       let hi := s.readByte (stackAddress (s.sp - 2))
       t.pc.toNat = (hi.toNat * 256 + lo.toNat + 1) % 65536 ∧
       t.accesses = s.accesses ++
         [⟨.read, stackAddress (s.sp - 1), lo⟩, ⟨.read, stackAddress (s.sp - 2), hi⟩]) ∧
      t.diags = s.diags ++ (if s.sp = 0x00 ∨ s.sp = 0x01 then [.stackUnderflow] else []) ∧
      Frame [.sp] [] [] s t)) ∧
  HasForms .rts [(0x60, .implied)]

/-- "JSR to address T then RTS returns control to the instruction immediately after the JSR", provided SP is as JSR left
it and the bytes popped are those pushed; SP is then as before the JSR (49_jumps_stack.md R383). Both instructions are
taken to complete. On any bus the bytes are those of the trace (log entry 3); where RAM stands behind every address they
are those of memory (`windows = []`, log entry 2). -/
def Obligations.JsrThenRtsReturns : Prop :=
  (∀ (i j : Instr) (s t u v : State) (hi lo : Byte), i.mnemonic = .jsr → j.mnemonic = .rts →
    exec i s = .next t → u.sp = t.sp → exec j u = .next v →
    t.accesses = s.accesses ++ [⟨.write, stackAddress s.sp, hi⟩, ⟨.write, stackAddress (s.sp + 1), lo⟩] →
    v.accesses = u.accesses ++ [⟨.read, stackAddress (s.sp + 1), lo⟩, ⟨.read, stackAddress s.sp, hi⟩] →
    v.pc = s.pc ∧ v.sp = s.sp) ∧
  (∀ (i j : Instr) (s t u v : State), i.mnemonic = .jsr → j.mnemonic = .rts →
    s.windows = [] → u.windows = [] →
    exec i s = .next t → u.sp = t.sp →
    u.readByte (stackAddress s.sp) = t.readByte (stackAddress s.sp) →
    u.readByte (stackAddress (s.sp + 1)) = t.readByte (stackAddress (s.sp + 1)) →
    exec j u = .next v →
    v.pc = s.pc ∧ v.sp = s.sp)

/-- PHP and PHA: a push of P with bits 4 and 5 forced to 1, or of A; no register but SP and no flag changes. -/
def PushLaw (mn : Mnemonic) (pushed : State → Byte) : Prop :=
  ∀ (i : Instr) (s : State), i.mnemonic = mn →
    OnlyBusFaults i s ∧
    (s.plainRam → ∃ t, exec i s = .next t ∧ t.sp = s.sp + 1 ∧
      t.readByte (stackAddress s.sp) = pushed s ∧ t.pc = s.pc ∧
      t.diags = s.diags ++ (if s.sp = 0xFF then [.stackOverflow] else []) ∧
      t.accesses = s.accesses ++ [⟨.write, stackAddress s.sp, pushed s⟩] ∧
      Frame [.sp] [] [stackAddress s.sp] s t)

/-- PHP and PHA (49_jumps_stack.md R386, R387). -/
def Obligations.PushInstructions : Prop :=
  PushLaw .php (fun s => s.p ||| 0b00110000) ∧ PushLaw .pha (fun s => s.a) ∧
  HasForms .php [(0x08, .implied)] ∧
  HasForms .pha [(0x48, .implied)]

/-- PLP loads all eight bits of P from the stack; PLA loads A and sets N and Z (49_jumps_stack.md R388, R389). -/
def Obligations.PullInstructions : Prop :=
  (∀ (i : Instr) (s : State), i.mnemonic = .plp →
    OnlyBusFaults i s ∧
    (s.plainRam → ∃ t, exec i s = .next t ∧ t.sp = s.sp - 1 ∧
      t.p = s.readByte (stackAddress (s.sp - 1)) ∧ t.pc = s.pc ∧
      t.diags = s.diags ++ (if s.sp = 0x00 then [.stackUnderflow] else []) ∧
      t.accesses = s.accesses ++ [⟨.read, stackAddress (s.sp - 1), t.p⟩] ∧
      Frame [.sp] [.c, .z, .i, .d, .b, .u, .v, .n] [] s t)) ∧
  (∀ (i : Instr) (s : State), i.mnemonic = .pla →
    OnlyBusFaults i s ∧
    (s.plainRam → ∃ t, exec i s = .next t ∧ t.sp = s.sp - 1 ∧
      t.a = s.readByte (stackAddress (s.sp - 1)) ∧ t.flag .n = t.a.getLsbD 7 ∧ t.flag .z = (t.a == 0) ∧
      t.pc = s.pc ∧
      t.diags = s.diags ++ (if s.sp = 0x00 then [.stackUnderflow] else []) ∧
      t.accesses = s.accesses ++ [⟨.read, stackAddress (s.sp - 1), t.a⟩] ∧
      Frame [.a, .sp] [.n, .z] [] s t)) ∧
  HasForms .plp [(0x28, .implied)] ∧
  HasForms .pla [(0x68, .implied)]

/-- NOP: two cycles (the spec's decision D21) and nothing else changed (49_jumps_stack.md R390). -/
def Obligations.NopOnlyConsumesCycles : Prop :=
  (∀ (i : Instr) (s : State), i.mnemonic = .nop → exec i s = .next { s with cycles := some 2 }) ∧
  HasForms .nop [(0xEA, .implied)]

/-! ### The software interrupt -/

/-- BRK: PC (the BRK's address plus 1, the spec's decision D9), high byte first, then P with bits 4 and 5 set
(decision D11) are pushed; I is set (decision D10) and no other flag (D12); PC is read from the vector 0xFFFE, low
byte first (D8) (49_jumps_stack.md R384; 60_exceptions.md R520). The pushes come before the vector reads. -/
def Obligations.BrkTakesTheTrap : Prop :=
  (∀ (i : Instr) (s : State), i.mnemonic = .brk →
    OnlyBusFaults i s ∧
    (s.plainRam → ∃ t, exec i s = .next t ∧ t.sp = s.sp + 3 ∧
      t.readByte (stackAddress s.sp) = BitVec.ofNat 8 (s.pc.toNat / 256) ∧
      t.readByte (stackAddress (s.sp + 1)) = BitVec.ofNat 8 (s.pc.toNat % 256) ∧
      t.readByte (stackAddress (s.sp + 2)) = s.p ||| 0b00110000 ∧
      t.flag .i = true ∧
      t.pc.toNat = (s.readByte 0xFFFF).toNat * 256 + (s.readByte 0xFFFE).toNat ∧
      t.diags = s.diags ++ (if s.sp.toNat ≥ 0xFD then [.stackOverflow] else []) ∧
      t.accesses = s.accesses ++
        [⟨.write, stackAddress s.sp, BitVec.ofNat 8 (s.pc.toNat / 256)⟩,
         ⟨.write, stackAddress (s.sp + 1), BitVec.ofNat 8 (s.pc.toNat % 256)⟩,
         ⟨.write, stackAddress (s.sp + 2), s.p ||| 0b00110000⟩,
         ⟨.read, 0xFFFE, s.readByte 0xFFFE⟩, ⟨.read, 0xFFFF, s.readByte 0xFFFF⟩] ∧
      Frame [.sp] [.i] [stackAddress s.sp, stackAddress (s.sp + 1), stackAddress (s.sp + 2)] s t)) ∧
  HasForms .brk [(0x00, .implied)]

/-- RTI: P, all eight bits (the spec's decision D13), then PC, low byte first, are popped; PC is not
incremented (49_jumps_stack.md R385). -/
def Obligations.RtiRestoresStatusAndPC : Prop :=
  (∀ (i : Instr) (s : State), i.mnemonic = .rti →
    OnlyBusFaults i s ∧
    (s.plainRam → ∃ t, exec i s = .next t ∧ t.sp = s.sp - 3 ∧
      t.p = s.readByte (stackAddress (s.sp - 1)) ∧
      (let lo := s.readByte (stackAddress (s.sp - 2))
       let hi := s.readByte (stackAddress (s.sp - 3))
       t.pc.toNat = hi.toNat * 256 + lo.toNat ∧
       t.accesses = s.accesses ++
         [⟨.read, stackAddress (s.sp - 1), t.p⟩, ⟨.read, stackAddress (s.sp - 2), lo⟩,
          ⟨.read, stackAddress (s.sp - 3), hi⟩]) ∧
      t.diags = s.diags ++ (if s.sp.toNat ≤ 0x02 then [.stackUnderflow] else []) ∧
      Frame [.sp] [.c, .z, .i, .d, .b, .u, .v, .n] [] s t)) ∧
  HasForms .rti [(0x40, .implied)]

/-- BRK then RTI with SP as BRK left it and the bytes popped those pushed: PC is the one BRK pushed, P is the pre-BRK
P with bits 4 and 5 set, SP is the pre-BRK SP (60_exceptions.md R520; that BRK pushes its address plus 1 is the
spec's decision D9, and here shows as `v.pc = s.pc`). On any bus the bytes are those of the trace; where RAM stands
behind every address they are those of memory. -/
def Obligations.BrkThenRtiReturns : Prop :=
  (∀ (i j : Instr) (s t u v : State) (hi lo p : Byte) (vector : List BusAccess), i.mnemonic = .brk → j.mnemonic = .rti →
    exec i s = .next t → u.sp = t.sp → exec j u = .next v →
    t.accesses = s.accesses ++ [⟨.write, stackAddress s.sp, hi⟩, ⟨.write, stackAddress (s.sp + 1), lo⟩,
      ⟨.write, stackAddress (s.sp + 2), p⟩] ++ vector →
    v.accesses = u.accesses ++ [⟨.read, stackAddress (s.sp + 2), p⟩, ⟨.read, stackAddress (s.sp + 1), lo⟩,
      ⟨.read, stackAddress s.sp, hi⟩] →
    v.pc = s.pc ∧ v.p = s.p ||| 0b00110000 ∧ v.sp = s.sp) ∧
  (∀ (i j : Instr) (s t u v : State), i.mnemonic = .brk → j.mnemonic = .rti →
    s.windows = [] → u.windows = [] →
    exec i s = .next t → u.sp = t.sp →
    (∀ k : Byte, k.toNat < 3 → u.readByte (stackAddress (s.sp + k)) = t.readByte (stackAddress (s.sp + k))) →
    exec j u = .next v →
    v.pc = s.pc ∧ v.p = s.p ||| 0b00110000 ∧ v.sp = s.sp)

/-! ### Reset -/

/-- Reset writes the registers with the power-up values it is given, reads PC from 0xFFFC, low byte first, with
exactly those two bus reads, raises no diagnostic and writes no memory; a failed read ends it with BusFault
(70_reset_and_hazards.md R600; the byte order is the spec's decision D8). The values themselves are
the spec's decisions D5 to D7 (log entry 4), and what the fault records is log entry 5. What the bus answers is R78's parameter (log entry 2); the last clause says
it for plain RAM. -/
def Obligations.ResetReadsTheVector : Prop :=
  ∀ (r : ResetValues) (s : State),
    (∀ lo hi, s.busRead 0xFFFC = .ok lo → (s.logAccess ⟨.read, 0xFFFC, lo⟩).busRead 0xFFFD = .ok hi →
      resetSession r s = .next
        { a := r.a, x := r.x, y := r.y, sp := r.sp, p := r.p
          pc := joinBytes hi lo
          mem := s.mem, windows := s.windows, busFailures := s.busFailures, busHistory := s.asked
          cycles := none, diags := []
          accesses := [⟨.read, 0xFFFC, lo⟩, ⟨.read, 0xFFFD, hi⟩] }) ∧
    (∀ f, s.busRead 0xFFFC = .error f → resetSession r s =
      .fault (.busFault f ⟨s.mem, [], ⟨.read, 0xFFFC, 0x00⟩⟩)) ∧
    (∀ lo f, s.busRead 0xFFFC = .ok lo → (s.logAccess ⟨.read, 0xFFFC, lo⟩).busRead 0xFFFD = .error f →
      resetSession r s = .fault (.busFault f ⟨s.mem, [⟨.read, 0xFFFC, lo⟩], ⟨.read, 0xFFFD, 0x00⟩⟩)) ∧
    (s.plainRam → ∃ t, resetSession r s = .next t ∧ t.pc = joinBytes (s.readByte 0xFFFD) (s.readByte 0xFFFC))

/-- `State.reset` is what the reset sequence leaves over memory that lists nothing and the plain-RAM bus that has been
asked nothing, with A = X = Y = SP = 0x00 and P = 0x34 (70_reset_and_hazards.md R601, decisions D5 to D7; that unlisted
memory reads 0x00, so that PC is 0x0000, is the model's choice, log entry 1, and the bus is log entry 2). -/
def Obligations.ResetStateIsTheResetSequence : Prop :=
  (∀ s : State, s.mem = [] → s.plainRam → s.asked = [] → resetSession Config.resetValues s = .next State.reset) ∧
  State.reset.a = 0x00 ∧ State.reset.x = 0x00 ∧ State.reset.y = 0x00 ∧ State.reset.sp = 0x00 ∧
  State.reset.p = 0x34 ∧ State.reset.pc = 0x0000

/-! ### Cycles -/

/-- The cycles of a branch on one flag: 2 when it is not taken; taken, 3 when the target is in the page of the next
instruction and 4 when it is not. -/
def BranchCyclesLaw (mn : Mnemonic) (f : Flag) (val : Bool) : Prop :=
  ∀ (i : Instr) (s : State), i.mnemonic = mn → ∃ off t, i.operand = .relative off ∧ exec i s = .next t ∧
    (s.flag f ≠ val → t.pc = s.pc ∧ t.cycles = some 2) ∧
    (s.flag f = val → t.pc = s.pc + off.signExtend 16 ∧
      t.cycles = some (if t.pc.toNat / 256 = s.pc.toNat / 256 then 3 else 4))

/-- Branch cycles, whatever the displacement, 0x00 among them: 2 not taken, 3 taken within the page of the next
instruction, 4 taken out of it (70_reset_and_hazards.md R612; the reference page is the spec's decision D29; the count is
an output kept in the state, log entry 3). -/
def Obligations.BranchCycles : Prop :=
  BranchCyclesLaw .bcc .c false ∧ BranchCyclesLaw .bcs .c true ∧ BranchCyclesLaw .beq .z true ∧
  BranchCyclesLaw .bmi .n true ∧ BranchCyclesLaw .bne .z false ∧ BranchCyclesLaw .bpl .n false ∧
  BranchCyclesLaw .bvc .v false ∧ BranchCyclesLaw .bvs .v true

/-- Every completed instruction that is no branch reports the base count in its cell of R610's table, plus one exactly
where the cell is marked `+` and its indexing crossed a page; and every cell is an instruction's
(70_reset_and_hazards.md R610, R611). `cycleCells` is that table written out cell by cell, which exec does not read; the
numbers are the spec's decision D21. -/
def Obligations.CycleCountsFollowTheTable : Prop :=
  (∀ (i : Instr) (s t : State), exec i s = .next t → i.mode ≠ .relative →
    ∃ n plus, (cycleCells i.mnemonic).filter (fun c => c.1 = i.mode) = [(i.mode, n, plus)] ∧
      (plus = false → t.cycles = some n) ∧
      (plus = true → ∃ r s1, resolveAddress i.operand s = .ok (r, s1) ∧
        t.cycles = some (if r.crossed then n + 1 else n))) ∧
  (∀ mn, ∀ c ∈ cycleCells mn, ∃ i : Instr, i.mnemonic = mn ∧ i.mode = c.1)

/-! ### Rules over the whole machine -/

/-- The memory stays in canonical form under every step, from every state that has it, and under every session of steps,
resets, getPC, setPC and other agents' bus accesses, whatever faults they meet (60_exceptions.md R501, R503, R536;
70_reset_and_hazards.md R621; log entries 5 and 8). -/
def Obligations.StepKeepsMemoryCanonical : Prop :=
  (∀ s t : State, s.wf = true → step s = .next t → t.wf = true) ∧
  (∀ (es : List Event) (x : Session), x.core.wf = true → (session es x).2.core.wf = true)

/-- Memory right after reset is in canonical form. -/
def Obligations.ResetMemoryIsCanonical : Prop := State.reset.wf = true

/-- Every instruction of the opcode map completes, in every state, on the plain-RAM bus: no privilege, no
alignment, no arithmetic trap; on any other bus it completes or ends with BusFault (60_exceptions.md R505, R530, R503;
one mode is the spec's decision D25). -/
def Obligations.EveryInstructionCompletes : Prop :=
  (∀ (i : Instr) (s : State), s.plainRam → ∃ t, exec i s = .next t) ∧
  (∀ (i : Instr) (s : State), (∃ t, exec i s = .next t) ∨ ∃ b left, exec i s = .fault (.busFault b left))

/-- A step is never refused, and the only faults are DecodeFault, raised by the fetch, and BusFault
(60_exceptions.md R500, R505). In a session (R536) only a step is ever refused, and only when no reset has started the
session or a BusFault has broken it: while it runs the step is taken and a DecodeFault does not end it; after a BusFault
the bus keeps what it served and remembers the access it failed (R503), every register is whatever it may be, and a
reset that succeeds starts a new session (70_reset_and_hazards.md R600). What a session keeps after a BusFault is log
entry 5. -/
def Obligations.OnlyDecodeAndBusFaultsStop : Prop :=
  (∀ s f, step s = .fault f → (∃ op a t, f = .decodeFault op a t) ∨ (∃ b left, f = .busFault b left)) ∧
  (∀ s r, step s ≠ .refused r) ∧
  (∀ (e : Event) (x : Session) (r : Refusal), act e x = .refused r ↔
    e = .step ∧ ((x.phase = .notStarted ∧ r = .stepBeforeReset) ∨ (x.phase = .afterBusFault ∧ r = .stepAfterBusFault))) ∧
  (∀ x : Session, x.phase = .running → act .step x = step x.core ∧
    ((x.next .step).phase = .running ↔ ∀ b left, step x.core ≠ .fault (.busFault b left)) ∧
    (∀ b left, step x.core = .fault (.busFault b left) → (x.next .step).phase = .afterBusFault ∧
      (x.next .step).core.asked = (left.accesses ++ [left.failed]).reverse ++ x.core.asked ∧
      (left.failed.kind ≠ .write → (x.next .step).core.mem = left.mem))) ∧
  (∀ (x : Session) (v : ResetValues) (t : State), resetSession v x.core = .next t →
    x.next (.reset v) = ⟨t, .running⟩)

/-- The first access the bus fails ends the instruction, or the step, with BusFault and the bus's report (60_exceptions.md
R503, R512; 20_memory.md R61, R62), whatever the bus: what fails may be an access it always fails or one the free values
of Config fail. An instruction, or a step, that completes on one bus with a trace ends on every other bus that fails one
of these accesses, the ones before it served, with BusFault for that access. A BusFault is that of an access `acc` the
bus fails after it has served `tr`, which is not undone (log entry 5 says how the fault records it); these are the instruction's own accesses in its order, since on every bus that fails
one of `tr ++ [acc]`, the ones before it served, the outcome is BusFault for that one. A step whose opcode or operand
fetch fails, the fetches before it served, ends with BusFault for that read. And with a list of accesses that always fail
the outcome is BusFault for the first of them, and with none of them what it is without the list. The bus and the list
are log entry 2, the trace log entry 3. -/
def Obligations.FirstFailingAccessEndsTheInstruction : Prop :=
  (∀ (i : Instr) (s t bus : State) (tr : List BusAccess) (f : BusFailure), exec i s = .next t →
    t.accesses = s.accesses ++ tr → (s.onBusOf bus).serve tr = .error (some f) →
    ∃ left, exec i (s.onBusOf bus) = .fault (.busFault f left)) ∧
  (∀ (s t bus : State) (f : BusFailure), step s = .next t →
    (s.onBusOf bus).clearOutputs.serve t.accesses = .error (some f) →
    ∃ left, step (s.onBusOf bus) = .fault (.busFault f left)) ∧
  (∀ (i : Instr) (s : State) (f : Fault), exec i s = .fault f →
    ∃ b tr acc u, f = .busFault b ⟨u.mem, u.accesses, acc⟩ ∧ s.serve tr = .ok u ∧ u.serveOne acc = .error (some b) ∧ u.fails b ∧
      ∀ (bus : State) (g : BusFailure), (s.onBusOf bus).serve (tr ++ [acc]) = .error (some g) →
        ∃ left, exec i (s.onBusOf bus) = .fault (.busFault g left)) ∧
  (∀ (s : State) (b : BusFailure) (left : BusLeft), step s = .fault (.busFault b left) →
    ∃ tr acc u, left = ⟨u.mem, u.accesses, acc⟩ ∧ s.clearOutputs.serve tr = .ok u ∧ u.serveOne acc = .error (some b) ∧ u.fails b ∧
      ∀ (bus : State) (g : BusFailure), (s.onBusOf bus).clearOutputs.serve (tr ++ [acc]) = .error (some g) →
        ∃ left, step (s.onBusOf bus) = .fault (.busFault g left)) ∧
  (∀ (s u : State) (i : Instr) (bs rest : List Byte) (b : Byte) (f : BusFailure), encode i = bs ++ b :: rest →
    s.clearOutputs.serve (fetchTrace s.pc bs) = .ok u →
    u.busRead (s.pc + BitVec.ofNat 16 bs.length) = .error f →
    step s = .fault (.busFault f ⟨u.mem, u.accesses, ⟨.read, s.pc + BitVec.ofNat 16 bs.length, 0x00⟩⟩)) ∧
  (∀ (i : Instr) (s t : State), exec i { s with busFailures := [] } = .next t →
    ∃ tr, t.accesses = s.accesses ++ tr ∧
      match firstFailure s.busFailures tr with
        | some f => ∃ left, exec i s = .fault (.busFault f left)
        | none => exec i s = .next { t with busFailures := s.busFailures }) ∧
  (∀ s t : State, step { s with busFailures := [] } = .next t →
    match firstFailure s.busFailures t.accesses with
      | some f => ∃ left, step s = .fault (.busFault f left)
      | none => step s = .next { t with busFailures := s.busFailures })

/-- The trace of bus accesses accounts for the bus: asked for these accesses in order, the bus answers each read with
the byte of the trace, takes each write, and is left with the memory the instruction leaves. And the bus reaches an
instruction only through those answers: another bus that answers so gives the same registers, flags and outputs
(20_memory.md R72, R73, R75, R78; the trace is log entry 3, the bus log entry 2). -/
def Obligations.TraceAccountsForMemory : Prop :=
  (∀ (i : Instr) (s t : State), exec i s = .next t →
    ∃ tr, t.accesses = s.accesses ++ tr ∧ (∀ acc ∈ tr, acc.kind = .read ∨ acc.kind = .write) ∧ s.serve tr = .ok (s.onBusOf t) ∧
      ∀ bus u : State, (s.onBusOf bus).serve tr = .ok u → exec i (s.onBusOf bus) = .next (t.onBusOf u)) ∧
  (∀ s t : State, step s = .next t →
    s.clearOutputs.serve t.accesses = .ok (s.clearOutputs.onBusOf t) ∧
    ∀ bus u : State, (s.onBusOf bus).clearOutputs.serve t.accesses = .ok u → step (s.onBusOf bus) = .next (t.onBusOf u))

/-- No instruction changes a flag that R36 does not list it as a writer of (10_state.md R36). -/
def Obligations.OnlyListedFlagsChange : Prop :=
  ∀ (i : Instr) (s t : State) (f : Flag), exec i s = .next t → f ∉ flagsWritten i.mnemonic → t.flag f = s.flag f

/-- No instruction changes a register that R31, R32 or R34 does not list it as a writer of
(10_state.md R31, R32, R34). -/
def Obligations.OnlyListedRegistersChange : Prop :=
  ∀ (i : Instr) (s t : State) (r : Reg), exec i s = .next t → r ∉ regsWritten i.mnemonic i.mode → t.reg r = s.reg r

/-- A step that completes has fetched one instruction from PC on, and unless that transfers control it leaves PC at the
opcode's address plus the instruction's length, modulo 65536 (10_state.md R42; 30_encoding.md R101). -/
def Obligations.PcAdvancesByTheLength : Prop :=
  ∀ s t : State, step s = .next t → ∃ (i : Instr) (tr : List BusAccess),
    t.accesses = fetchTrace s.pc (encode i) ++ tr ∧
    (transfersControl i.mnemonic = false → t.pc = s.pc + BitVec.ofNat 16 (1 + i.mode.operandBytes))

/-- The stored values of P.B and P.U can be seen by no program: two states equal but for bits 4 and 5 of P take
every step to the same outcome, again equal but for those bits (10_state.md R37). -/
def Obligations.BreakAndUnusedBitsAreInvisible : Prop :=
  ∀ s s' : State, AgreeOutside 0b00110000 s s' → OutcomesAgree 0b00110000 (step s) (step s')

/-- P.I masks nothing: but for PHP and BRK, which push the whole byte, an instruction does the same whatever
P.I, P.B and P.U hold (10_state.md R37; 60_exceptions.md R510). -/
def Obligations.InterruptDisableMasksNothing : Prop :=
  ∀ (i : Instr) (s s' : State), i.mnemonic ≠ .php → i.mnemonic ≠ .brk →
    AgreeOutside 0b00110100 s s' → OutcomesAgree 0b00110100 (exec i s) (exec i s')
end

