-- ==== Sys2Proof/Laws/Flags.lean ====
section
/-! SUPPORT. The laws of the status bits and of the byte and word helpers. -/

namespace Sys2Proof

theorem joinBytes_toNat (hi lo : Byte) : (joinBytes hi lo).toNat = hi.toNat * 256 + lo.toNat := by
  simp only [joinBytes, BitVec.toNat_append]
  rw [← Nat.shiftLeft_add_eq_or_of_lt lo.isLt, Nat.shiftLeft_eq]

theorem hiByte_toNat (w : Word) : (hiByte w).toNat = w.toNat / 256 := by
  simp only [hiByte, BitVec.extractLsb'_toNat, Nat.shiftRight_eq_div_pow]
  omega

theorem loByte_toNat (w : Word) : (loByte w).toNat = w.toNat % 256 := by
  simp [loByte]

@[simp] theorem hiByte_joinBytes (hi lo : Byte) : hiByte (joinBytes hi lo) = hi := by
  apply BitVec.eq_of_toNat_eq
  rw [hiByte_toNat, joinBytes_toNat]
  omega

@[simp] theorem loByte_joinBytes (hi lo : Byte) : loByte (joinBytes hi lo) = lo := by
  apply BitVec.eq_of_toNat_eq
  rw [loByte_toNat, joinBytes_toNat]
  omega

@[simp] theorem joinBytes_hiByte_loByte (w : Word) : joinBytes (hiByte w) (loByte w) = w := by
  apply BitVec.eq_of_toNat_eq
  rw [joinBytes_toNat, hiByte_toNat, loByte_toNat]
  omega

@[simp] theorem zext_toNat (v : Byte) : (zext v).toNat = v.toNat := by
  simp [zext]; omega

theorem zext_inj {a b : Byte} : zext a = zext b ↔ a = b :=
  ⟨fun h => BitVec.eq_of_toNat_eq (by simpa using congrArg BitVec.toNat h), fun h => h ▸ rfl⟩

end Sys2Proof

namespace Sys2Proof.Machine

theorem Flag.bit_lt (f : Flag) : f.bit < 8 := by cases f <;> decide

theorem Flag.bit_inj {f g : Flag} (h : f.bit = g.bit) : f = g := by
  cases f <;> cases g <;> first | rfl | simp [Flag.bit] at h

/-- What setFlag leaves in each bit of P (10_state.md R33). -/
theorem getFlag_setFlag (p : Byte) (f g : Flag) (v : Bool) :
    getFlag (setFlag p f v) g = if g = f then v else getFlag p g := by
  cases v <;> cases f <;> cases g <;> simp [getFlag, setFlag, Flag.bit]

@[simp] theorem getFlag_setFlag_same (p : Byte) (f : Flag) (v : Bool) : getFlag (setFlag p f v) f = v := by
  simp [getFlag_setFlag]

theorem getFlag_setFlag_other (p : Byte) (f g : Flag) (v : Bool) (h : g ≠ f) :
    getFlag (setFlag p f v) g = getFlag p g := by
  simp [getFlag_setFlag, h]

/-- What SetNZ leaves in each bit of P (10_state.md R40). -/
theorem getFlag_setNZ (p v : Byte) (g : Flag) :
    getFlag (setNZ p v) g = if g = .z then v == 0 else if g = .n then v.getLsbD 7 else getFlag p g := by
  simp [setNZ, getFlag_setFlag]

@[simp] theorem getFlag_setNZ_n (p v : Byte) : getFlag (setNZ p v) .n = v.getLsbD 7 := by simp [getFlag_setNZ]
@[simp] theorem getFlag_setNZ_z (p v : Byte) : getFlag (setNZ p v) .z = (v == 0) := by simp [getFlag_setNZ]

theorem getFlag_setNZ_other (p v : Byte) (g : Flag) (hz : g ≠ .z) (hn : g ≠ .n) :
    getFlag (setNZ p v) g = getFlag p g := by
  simp [getFlag_setNZ, hz, hn]

/-- P is its eight flags. -/
theorem eq_of_flags {p q : Byte} (h : ∀ f, getFlag p f = getFlag q f) : p = q := by
  ext k hk
  have h0 := h .c; have h1 := h .z; have h2 := h .i; have h3 := h .d
  have h4 := h .b; have h5 := h .u; have h6 := h .v; have h7 := h .n
  simp only [getFlag, Flag.bit] at h0 h1 h2 h3 h4 h5 h6 h7
  simp only [← BitVec.getLsbD_eq_getElem]
  match k, hk with
  | 0, _ => exact h0
  | 1, _ => exact h1
  | 2, _ => exact h2
  | 3, _ => exact h3
  | 4, _ => exact h4
  | 5, _ => exact h5
  | 6, _ => exact h6
  | 7, _ => exact h7

end Sys2Proof.Machine
end

