-- ==== Sys2Proof/Laws/Memory.lean ====
section
/-! SUPPORT. The laws of memory: a read after a write, and that every write keeps the canonical form. -/

namespace Sys2Proof.Machine

namespace Memory

theorem read_erase_same (m : Memory) (a : Nat) : read (erase m a) a = Config.unlistedByte := by
  induction m with
  | nil => rfl
  | cons e m ih =>
    obtain ⟨k, b⟩ := e
    by_cases h : k = a <;> simp [erase, read, h, ih]

theorem read_erase_other (m : Memory) (a b : Nat) (h : b ≠ a) : read (erase m a) b = read m b := by
  induction m with
  | nil => rfl
  | cons e m ih =>
    obtain ⟨k, v⟩ := e
    by_cases hk : k = a
    · have : ¬ k = b := fun hb => h (hb.symm.trans hk)
      simp [erase, read, hk, ih, show ¬ a = b from fun hb => h hb.symm]
    · by_cases hb : k = b
      · subst hb; simp [erase, read, hk]
      · simp [erase, read, hk, hb, ih]

theorem read_insert_other (m : Memory) (a b : Nat) (v : Byte) (h : b ≠ a) : read (insert m a v) b = read m b := by
  induction m with
  | nil => simp [insert, read, show ¬ a = b from fun hb => h hb.symm]
  | cons e m ih =>
    obtain ⟨k, w⟩ := e
    by_cases hk : a < k
    · simp [insert, hk, read, show ¬ a = b from fun hb => h hb.symm]
    · by_cases hb : k = b
      · subst hb; simp [insert, hk, read]
      · simp [insert, hk, read, hb, ih]

/-- In memory that lists `a` nowhere, an inserted byte is the byte read. -/
theorem read_insert_same (m : Memory) (a : Nat) (v : Byte) (h : ∀ e ∈ m, e.1 ≠ a) : read (insert m a v) a = v := by
  induction m with
  | nil => simp [insert, read]
  | cons e m ih =>
    obtain ⟨k, w⟩ := e
    by_cases hk : a < k
    · simp [insert, hk, read]
    · have hne : ¬ k = a := h (k, w) (by simp)
      simp [insert, hk, read, hne, ih (fun e he => h e (by simp [he]))]

theorem erase_lists_not (m : Memory) (a : Nat) : ∀ e ∈ erase m a, e.1 ≠ a := by
  induction m with
  | nil => simp [erase]
  | cons e m ih =>
    obtain ⟨k, v⟩ := e
    by_cases h : k = a
    · simpa [erase, h] using ih
    · intro e he
      simp only [erase, h, if_false, List.mem_cons] at he
      rcases he with rfl | he
      · exact h
      · exact ih e he

/-- A byte written is the byte read there. -/
@[simp] theorem read_write_same (m : Memory) (a : Nat) (v : Byte) : read (write m a v) a = v := by
  by_cases h : v = Config.unlistedByte
  · simp [write, h, read_erase_same]
  · simp [write, h, read_insert_same _ _ _ (erase_lists_not m a)]

/-- A write leaves every other address alone. -/
theorem read_write_other (m : Memory) (a b : Nat) (v : Byte) (h : b ≠ a) : read (write m a v) b = read m b := by
  by_cases hv : v = Config.unlistedByte
  · simp [write, hv, read_erase_other _ _ _ h]
  · simp [write, hv, read_insert_other _ _ _ _ h, read_erase_other _ _ _ h]

theorem wfFrom_mono {lo lo' : Nat} (h : lo' ≤ lo) : ∀ {m : Memory}, wfFrom lo m = true → wfFrom lo' m = true
  | [], _ => rfl
  | (k, b) :: m, hm => by
    simp only [wfFrom, Bool.and_eq_true, decide_eq_true_eq] at hm ⊢
    exact ⟨⟨⟨by omega, hm.1.1.2⟩, hm.1.2⟩, hm.2⟩

theorem wfFrom_erase (a : Nat) : ∀ {m : Memory} {lo : Nat}, wfFrom lo m = true → wfFrom lo (erase m a) = true
  | [], _, _ => rfl
  | (k, b) :: m, lo, hm => by
    simp only [wfFrom, Bool.and_eq_true, decide_eq_true_eq] at hm
    by_cases h : k = a
    · simpa [erase, h] using wfFrom_mono (by omega) (wfFrom_erase a hm.2)
    · simp only [erase, h, if_false, wfFrom, Bool.and_eq_true, decide_eq_true_eq]
      exact ⟨hm.1, wfFrom_erase a hm.2⟩

theorem wfFrom_insert (a : Nat) (v : Byte) (ha : a < 65536) (hv : v ≠ Config.unlistedByte) :
    ∀ {m : Memory} {lo : Nat}, lo ≤ a → (∀ e ∈ m, e.1 ≠ a) → wfFrom lo m = true → wfFrom lo (insert m a v) = true
  | [], lo, hlo, _, _ => by simp [insert, wfFrom, hlo, ha, hv]
  | (k, b) :: m, lo, hlo, hne, hm => by
    simp only [wfFrom, Bool.and_eq_true, decide_eq_true_eq] at hm
    by_cases h : a < k
    · simp only [insert, h, if_true, wfFrom, Bool.and_eq_true, decide_eq_true_eq]
      exact ⟨⟨⟨hlo, ha⟩, hv⟩, ⟨⟨⟨by omega, hm.1.1.2⟩, hm.1.2⟩, hm.2⟩⟩
    · have hka : k ≠ a := hne (k, b) (by simp)
      simp only [insert, h, if_false, wfFrom, Bool.and_eq_true, decide_eq_true_eq]
      exact ⟨hm.1, wfFrom_insert a v ha hv (by omega) (fun e he => hne e (by simp [he])) hm.2⟩

/-- Every write keeps the canonical form. -/
theorem wf_write (m : Memory) (a : Nat) (v : Byte) (ha : a < 65536) (hm : wf m = true) : wf (write m a v) = true := by
  by_cases h : v = Config.unlistedByte
  · simpa [write, h, wf] using wfFrom_erase a hm
  · simpa [write, h, wf] using wfFrom_insert a v ha h (Nat.zero_le a) (erase_lists_not m a) (wfFrom_erase a hm)

end Memory

/-- A byte written is the byte read there (20_memory.md R78). -/
@[simp] theorem State.writeByte_readByte_same (s : State) (a : Word) (v : Byte) : (s.writeByte a v).readByte a = v :=
  Memory.read_write_same _ _ _

/-- A write leaves every other address alone (20_memory.md R78). -/
theorem State.writeByte_readByte_other (s : State) (a b : Word) (v : Byte) (h : b ≠ a) :
    (s.writeByte a v).readByte b = s.readByte b :=
  Memory.read_write_other _ _ _ _ (fun hb => h (BitVec.eq_of_toNat_eq hb))

/-- Memory keeps its canonical form under a write at any address of the core. -/
theorem State.writeByte_wf (s : State) (a : Word) (v : Byte) (h : s.mem.wf = true) :
    (s.writeByte a v).mem.wf = true :=
  Memory.wf_write _ _ _ a.isLt h

end Sys2Proof.Machine
end

