-- ==== Sys2Proof/Laws/State.lean ====
section
/-! SUPPORT. What each update of State leaves in each field: one lemma per field per update, each true by rfl. -/

namespace Sys2Proof.Machine

/-! ### setA -/

@[simp] theorem State.setA_a (s : State) (v : Byte) : (s.setA v).a = v := rfl
@[simp] theorem State.setA_x (s : State) (v : Byte) : (s.setA v).x = s.x := rfl
@[simp] theorem State.setA_y (s : State) (v : Byte) : (s.setA v).y = s.y := rfl
@[simp] theorem State.setA_sp (s : State) (v : Byte) : (s.setA v).sp = s.sp := rfl
@[simp] theorem State.setA_p (s : State) (v : Byte) : (s.setA v).p = s.p := rfl
@[simp] theorem State.setA_pc (s : State) (v : Byte) : (s.setA v).pc = s.pc := rfl
@[simp] theorem State.setA_mem (s : State) (v : Byte) : (s.setA v).mem = s.mem := rfl
@[simp] theorem State.setA_windows (s : State) (v : Byte) : (s.setA v).windows = s.windows := rfl
@[simp] theorem State.setA_busFailures (s : State) (v : Byte) : (s.setA v).busFailures = s.busFailures := rfl
@[simp] theorem State.setA_busHistory (s : State) (v : Byte) : (s.setA v).busHistory = s.busHistory := rfl
@[simp] theorem State.setA_cycles (s : State) (v : Byte) : (s.setA v).cycles = s.cycles := rfl
@[simp] theorem State.setA_diags (s : State) (v : Byte) : (s.setA v).diags = s.diags := rfl
@[simp] theorem State.setA_accesses (s : State) (v : Byte) : (s.setA v).accesses = s.accesses := rfl
@[simp] theorem State.setA_readByte (s : State) (v : Byte) (w' : Word) : (s.setA v).readByte w' = s.readByte w' := rfl
@[simp] theorem State.setA_busFailure (s : State) (v : Byte) (k' : AccessKind) (w' : Word) : (s.setA v).busFailure k' w' = s.busFailure k' w' := rfl
@[simp] theorem State.setA_behind (s : State) (v : Byte) (w' : Word) : (s.setA v).behind w' = s.behind w' := rfl
@[simp] theorem State.setA_asked (s : State) (v : Byte) : (s.setA v).asked = s.asked := rfl
@[simp] theorem State.setA_busRead (s : State) (v : Byte) (w' : Word) : (s.setA v).busRead w' = s.busRead w' := rfl
@[simp] theorem State.setA_busWrite (s : State) (v : Byte) (w' : Word) (v' : Byte) : (s.setA v).busWrite w' v' = s.busWrite w' v' := rfl
@[simp] theorem State.setA_flag (s : State) (v : Byte) (f' : Flag) : (s.setA v).flag f' = s.flag f' := rfl

/-! ### setX -/

@[simp] theorem State.setX_a (s : State) (v : Byte) : (s.setX v).a = s.a := rfl
@[simp] theorem State.setX_x (s : State) (v : Byte) : (s.setX v).x = v := rfl
@[simp] theorem State.setX_y (s : State) (v : Byte) : (s.setX v).y = s.y := rfl
@[simp] theorem State.setX_sp (s : State) (v : Byte) : (s.setX v).sp = s.sp := rfl
@[simp] theorem State.setX_p (s : State) (v : Byte) : (s.setX v).p = s.p := rfl
@[simp] theorem State.setX_pc (s : State) (v : Byte) : (s.setX v).pc = s.pc := rfl
@[simp] theorem State.setX_mem (s : State) (v : Byte) : (s.setX v).mem = s.mem := rfl
@[simp] theorem State.setX_windows (s : State) (v : Byte) : (s.setX v).windows = s.windows := rfl
@[simp] theorem State.setX_busFailures (s : State) (v : Byte) : (s.setX v).busFailures = s.busFailures := rfl
@[simp] theorem State.setX_busHistory (s : State) (v : Byte) : (s.setX v).busHistory = s.busHistory := rfl
@[simp] theorem State.setX_cycles (s : State) (v : Byte) : (s.setX v).cycles = s.cycles := rfl
@[simp] theorem State.setX_diags (s : State) (v : Byte) : (s.setX v).diags = s.diags := rfl
@[simp] theorem State.setX_accesses (s : State) (v : Byte) : (s.setX v).accesses = s.accesses := rfl
@[simp] theorem State.setX_readByte (s : State) (v : Byte) (w' : Word) : (s.setX v).readByte w' = s.readByte w' := rfl
@[simp] theorem State.setX_busFailure (s : State) (v : Byte) (k' : AccessKind) (w' : Word) : (s.setX v).busFailure k' w' = s.busFailure k' w' := rfl
@[simp] theorem State.setX_behind (s : State) (v : Byte) (w' : Word) : (s.setX v).behind w' = s.behind w' := rfl
@[simp] theorem State.setX_asked (s : State) (v : Byte) : (s.setX v).asked = s.asked := rfl
@[simp] theorem State.setX_busRead (s : State) (v : Byte) (w' : Word) : (s.setX v).busRead w' = s.busRead w' := rfl
@[simp] theorem State.setX_busWrite (s : State) (v : Byte) (w' : Word) (v' : Byte) : (s.setX v).busWrite w' v' = s.busWrite w' v' := rfl
@[simp] theorem State.setX_flag (s : State) (v : Byte) (f' : Flag) : (s.setX v).flag f' = s.flag f' := rfl

/-! ### setY -/

@[simp] theorem State.setY_a (s : State) (v : Byte) : (s.setY v).a = s.a := rfl
@[simp] theorem State.setY_x (s : State) (v : Byte) : (s.setY v).x = s.x := rfl
@[simp] theorem State.setY_y (s : State) (v : Byte) : (s.setY v).y = v := rfl
@[simp] theorem State.setY_sp (s : State) (v : Byte) : (s.setY v).sp = s.sp := rfl
@[simp] theorem State.setY_p (s : State) (v : Byte) : (s.setY v).p = s.p := rfl
@[simp] theorem State.setY_pc (s : State) (v : Byte) : (s.setY v).pc = s.pc := rfl
@[simp] theorem State.setY_mem (s : State) (v : Byte) : (s.setY v).mem = s.mem := rfl
@[simp] theorem State.setY_windows (s : State) (v : Byte) : (s.setY v).windows = s.windows := rfl
@[simp] theorem State.setY_busFailures (s : State) (v : Byte) : (s.setY v).busFailures = s.busFailures := rfl
@[simp] theorem State.setY_busHistory (s : State) (v : Byte) : (s.setY v).busHistory = s.busHistory := rfl
@[simp] theorem State.setY_cycles (s : State) (v : Byte) : (s.setY v).cycles = s.cycles := rfl
@[simp] theorem State.setY_diags (s : State) (v : Byte) : (s.setY v).diags = s.diags := rfl
@[simp] theorem State.setY_accesses (s : State) (v : Byte) : (s.setY v).accesses = s.accesses := rfl
@[simp] theorem State.setY_readByte (s : State) (v : Byte) (w' : Word) : (s.setY v).readByte w' = s.readByte w' := rfl
@[simp] theorem State.setY_busFailure (s : State) (v : Byte) (k' : AccessKind) (w' : Word) : (s.setY v).busFailure k' w' = s.busFailure k' w' := rfl
@[simp] theorem State.setY_behind (s : State) (v : Byte) (w' : Word) : (s.setY v).behind w' = s.behind w' := rfl
@[simp] theorem State.setY_asked (s : State) (v : Byte) : (s.setY v).asked = s.asked := rfl
@[simp] theorem State.setY_busRead (s : State) (v : Byte) (w' : Word) : (s.setY v).busRead w' = s.busRead w' := rfl
@[simp] theorem State.setY_busWrite (s : State) (v : Byte) (w' : Word) (v' : Byte) : (s.setY v).busWrite w' v' = s.busWrite w' v' := rfl
@[simp] theorem State.setY_flag (s : State) (v : Byte) (f' : Flag) : (s.setY v).flag f' = s.flag f' := rfl

/-! ### setSP -/

@[simp] theorem State.setSP_a (s : State) (v : Byte) : (s.setSP v).a = s.a := rfl
@[simp] theorem State.setSP_x (s : State) (v : Byte) : (s.setSP v).x = s.x := rfl
@[simp] theorem State.setSP_y (s : State) (v : Byte) : (s.setSP v).y = s.y := rfl
@[simp] theorem State.setSP_sp (s : State) (v : Byte) : (s.setSP v).sp = v := rfl
@[simp] theorem State.setSP_p (s : State) (v : Byte) : (s.setSP v).p = s.p := rfl
@[simp] theorem State.setSP_pc (s : State) (v : Byte) : (s.setSP v).pc = s.pc := rfl
@[simp] theorem State.setSP_mem (s : State) (v : Byte) : (s.setSP v).mem = s.mem := rfl
@[simp] theorem State.setSP_windows (s : State) (v : Byte) : (s.setSP v).windows = s.windows := rfl
@[simp] theorem State.setSP_busFailures (s : State) (v : Byte) : (s.setSP v).busFailures = s.busFailures := rfl
@[simp] theorem State.setSP_busHistory (s : State) (v : Byte) : (s.setSP v).busHistory = s.busHistory := rfl
@[simp] theorem State.setSP_cycles (s : State) (v : Byte) : (s.setSP v).cycles = s.cycles := rfl
@[simp] theorem State.setSP_diags (s : State) (v : Byte) : (s.setSP v).diags = s.diags := rfl
@[simp] theorem State.setSP_accesses (s : State) (v : Byte) : (s.setSP v).accesses = s.accesses := rfl
@[simp] theorem State.setSP_readByte (s : State) (v : Byte) (w' : Word) : (s.setSP v).readByte w' = s.readByte w' := rfl
@[simp] theorem State.setSP_busFailure (s : State) (v : Byte) (k' : AccessKind) (w' : Word) : (s.setSP v).busFailure k' w' = s.busFailure k' w' := rfl
@[simp] theorem State.setSP_behind (s : State) (v : Byte) (w' : Word) : (s.setSP v).behind w' = s.behind w' := rfl
@[simp] theorem State.setSP_asked (s : State) (v : Byte) : (s.setSP v).asked = s.asked := rfl
@[simp] theorem State.setSP_busRead (s : State) (v : Byte) (w' : Word) : (s.setSP v).busRead w' = s.busRead w' := rfl
@[simp] theorem State.setSP_busWrite (s : State) (v : Byte) (w' : Word) (v' : Byte) : (s.setSP v).busWrite w' v' = s.busWrite w' v' := rfl
@[simp] theorem State.setSP_flag (s : State) (v : Byte) (f' : Flag) : (s.setSP v).flag f' = s.flag f' := rfl

/-! ### setP -/

@[simp] theorem State.setP_a (s : State) (v : Byte) : (s.setP v).a = s.a := rfl
@[simp] theorem State.setP_x (s : State) (v : Byte) : (s.setP v).x = s.x := rfl
@[simp] theorem State.setP_y (s : State) (v : Byte) : (s.setP v).y = s.y := rfl
@[simp] theorem State.setP_sp (s : State) (v : Byte) : (s.setP v).sp = s.sp := rfl
@[simp] theorem State.setP_p (s : State) (v : Byte) : (s.setP v).p = v := rfl
@[simp] theorem State.setP_pc (s : State) (v : Byte) : (s.setP v).pc = s.pc := rfl
@[simp] theorem State.setP_mem (s : State) (v : Byte) : (s.setP v).mem = s.mem := rfl
@[simp] theorem State.setP_windows (s : State) (v : Byte) : (s.setP v).windows = s.windows := rfl
@[simp] theorem State.setP_busFailures (s : State) (v : Byte) : (s.setP v).busFailures = s.busFailures := rfl
@[simp] theorem State.setP_busHistory (s : State) (v : Byte) : (s.setP v).busHistory = s.busHistory := rfl
@[simp] theorem State.setP_cycles (s : State) (v : Byte) : (s.setP v).cycles = s.cycles := rfl
@[simp] theorem State.setP_diags (s : State) (v : Byte) : (s.setP v).diags = s.diags := rfl
@[simp] theorem State.setP_accesses (s : State) (v : Byte) : (s.setP v).accesses = s.accesses := rfl
@[simp] theorem State.setP_readByte (s : State) (v : Byte) (w' : Word) : (s.setP v).readByte w' = s.readByte w' := rfl
@[simp] theorem State.setP_busFailure (s : State) (v : Byte) (k' : AccessKind) (w' : Word) : (s.setP v).busFailure k' w' = s.busFailure k' w' := rfl
@[simp] theorem State.setP_behind (s : State) (v : Byte) (w' : Word) : (s.setP v).behind w' = s.behind w' := rfl
@[simp] theorem State.setP_asked (s : State) (v : Byte) : (s.setP v).asked = s.asked := rfl
@[simp] theorem State.setP_busRead (s : State) (v : Byte) (w' : Word) : (s.setP v).busRead w' = s.busRead w' := rfl
@[simp] theorem State.setP_busWrite (s : State) (v : Byte) (w' : Word) (v' : Byte) : (s.setP v).busWrite w' v' = s.busWrite w' v' := rfl
@[simp] theorem State.setP_reg (s : State) (v : Byte) (r' : Reg) : (s.setP v).reg r' = s.reg r' := by cases r' <;> rfl

/-! ### setPC -/

@[simp] theorem State.setPC_a (s : State) (w : Word) : (s.setPC w).a = s.a := rfl
@[simp] theorem State.setPC_x (s : State) (w : Word) : (s.setPC w).x = s.x := rfl
@[simp] theorem State.setPC_y (s : State) (w : Word) : (s.setPC w).y = s.y := rfl
@[simp] theorem State.setPC_sp (s : State) (w : Word) : (s.setPC w).sp = s.sp := rfl
@[simp] theorem State.setPC_p (s : State) (w : Word) : (s.setPC w).p = s.p := rfl
@[simp] theorem State.setPC_pc (s : State) (w : Word) : (s.setPC w).pc = w := rfl
@[simp] theorem State.setPC_mem (s : State) (w : Word) : (s.setPC w).mem = s.mem := rfl
@[simp] theorem State.setPC_windows (s : State) (w : Word) : (s.setPC w).windows = s.windows := rfl
@[simp] theorem State.setPC_busFailures (s : State) (w : Word) : (s.setPC w).busFailures = s.busFailures := rfl
@[simp] theorem State.setPC_busHistory (s : State) (w : Word) : (s.setPC w).busHistory = s.busHistory := rfl
@[simp] theorem State.setPC_cycles (s : State) (w : Word) : (s.setPC w).cycles = s.cycles := rfl
@[simp] theorem State.setPC_diags (s : State) (w : Word) : (s.setPC w).diags = s.diags := rfl
@[simp] theorem State.setPC_accesses (s : State) (w : Word) : (s.setPC w).accesses = s.accesses := rfl
@[simp] theorem State.setPC_readByte (s : State) (w : Word) (w' : Word) : (s.setPC w).readByte w' = s.readByte w' := rfl
@[simp] theorem State.setPC_busFailure (s : State) (w : Word) (k' : AccessKind) (w' : Word) : (s.setPC w).busFailure k' w' = s.busFailure k' w' := rfl
@[simp] theorem State.setPC_behind (s : State) (w : Word) (w' : Word) : (s.setPC w).behind w' = s.behind w' := rfl
@[simp] theorem State.setPC_asked (s : State) (w : Word) : (s.setPC w).asked = s.asked := rfl
@[simp] theorem State.setPC_busRead (s : State) (w : Word) (w' : Word) : (s.setPC w).busRead w' = s.busRead w' := rfl
@[simp] theorem State.setPC_busWrite (s : State) (w : Word) (w' : Word) (v' : Byte) : (s.setPC w).busWrite w' v' = s.busWrite w' v' := rfl
@[simp] theorem State.setPC_flag (s : State) (w : Word) (f' : Flag) : (s.setPC w).flag f' = s.flag f' := rfl
@[simp] theorem State.setPC_reg (s : State) (w : Word) (r' : Reg) : (s.setPC w).reg r' = s.reg r' := by cases r' <;> rfl

/-! ### setMem -/

@[simp] theorem State.setMem_a (s : State) (m : Memory) : (s.setMem m).a = s.a := rfl
@[simp] theorem State.setMem_x (s : State) (m : Memory) : (s.setMem m).x = s.x := rfl
@[simp] theorem State.setMem_y (s : State) (m : Memory) : (s.setMem m).y = s.y := rfl
@[simp] theorem State.setMem_sp (s : State) (m : Memory) : (s.setMem m).sp = s.sp := rfl
@[simp] theorem State.setMem_p (s : State) (m : Memory) : (s.setMem m).p = s.p := rfl
@[simp] theorem State.setMem_pc (s : State) (m : Memory) : (s.setMem m).pc = s.pc := rfl
@[simp] theorem State.setMem_mem (s : State) (m : Memory) : (s.setMem m).mem = m := rfl
@[simp] theorem State.setMem_windows (s : State) (m : Memory) : (s.setMem m).windows = s.windows := rfl
@[simp] theorem State.setMem_busFailures (s : State) (m : Memory) : (s.setMem m).busFailures = s.busFailures := rfl
@[simp] theorem State.setMem_busHistory (s : State) (m : Memory) : (s.setMem m).busHistory = s.busHistory := rfl
@[simp] theorem State.setMem_cycles (s : State) (m : Memory) : (s.setMem m).cycles = s.cycles := rfl
@[simp] theorem State.setMem_diags (s : State) (m : Memory) : (s.setMem m).diags = s.diags := rfl
@[simp] theorem State.setMem_accesses (s : State) (m : Memory) : (s.setMem m).accesses = s.accesses := rfl
@[simp] theorem State.setMem_busFailure (s : State) (m : Memory) (k' : AccessKind) (w' : Word) : (s.setMem m).busFailure k' w' = s.busFailure k' w' := rfl
@[simp] theorem State.setMem_behind (s : State) (m : Memory) (w' : Word) : (s.setMem m).behind w' = s.behind w' := rfl
@[simp] theorem State.setMem_asked (s : State) (m : Memory) : (s.setMem m).asked = s.asked := rfl
@[simp] theorem State.setMem_flag (s : State) (m : Memory) (f' : Flag) : (s.setMem m).flag f' = s.flag f' := rfl
@[simp] theorem State.setMem_reg (s : State) (m : Memory) (r' : Reg) : (s.setMem m).reg r' = s.reg r' := by cases r' <;> rfl

/-! ### setCycles -/

@[simp] theorem State.setCycles_a (s : State) (n : Option Nat) : (s.setCycles n).a = s.a := rfl
@[simp] theorem State.setCycles_x (s : State) (n : Option Nat) : (s.setCycles n).x = s.x := rfl
@[simp] theorem State.setCycles_y (s : State) (n : Option Nat) : (s.setCycles n).y = s.y := rfl
@[simp] theorem State.setCycles_sp (s : State) (n : Option Nat) : (s.setCycles n).sp = s.sp := rfl
@[simp] theorem State.setCycles_p (s : State) (n : Option Nat) : (s.setCycles n).p = s.p := rfl
@[simp] theorem State.setCycles_pc (s : State) (n : Option Nat) : (s.setCycles n).pc = s.pc := rfl
@[simp] theorem State.setCycles_mem (s : State) (n : Option Nat) : (s.setCycles n).mem = s.mem := rfl
@[simp] theorem State.setCycles_windows (s : State) (n : Option Nat) : (s.setCycles n).windows = s.windows := rfl
@[simp] theorem State.setCycles_busFailures (s : State) (n : Option Nat) : (s.setCycles n).busFailures = s.busFailures := rfl
@[simp] theorem State.setCycles_busHistory (s : State) (n : Option Nat) : (s.setCycles n).busHistory = s.busHistory := rfl
@[simp] theorem State.setCycles_cycles (s : State) (n : Option Nat) : (s.setCycles n).cycles = n := rfl
@[simp] theorem State.setCycles_diags (s : State) (n : Option Nat) : (s.setCycles n).diags = s.diags := rfl
@[simp] theorem State.setCycles_accesses (s : State) (n : Option Nat) : (s.setCycles n).accesses = s.accesses := rfl
@[simp] theorem State.setCycles_readByte (s : State) (n : Option Nat) (w' : Word) : (s.setCycles n).readByte w' = s.readByte w' := rfl
@[simp] theorem State.setCycles_busFailure (s : State) (n : Option Nat) (k' : AccessKind) (w' : Word) : (s.setCycles n).busFailure k' w' = s.busFailure k' w' := rfl
@[simp] theorem State.setCycles_behind (s : State) (n : Option Nat) (w' : Word) : (s.setCycles n).behind w' = s.behind w' := rfl
@[simp] theorem State.setCycles_asked (s : State) (n : Option Nat) : (s.setCycles n).asked = s.asked := rfl
@[simp] theorem State.setCycles_busRead (s : State) (n : Option Nat) (w' : Word) : (s.setCycles n).busRead w' = s.busRead w' := rfl
@[simp] theorem State.setCycles_busWrite (s : State) (n : Option Nat) (w' : Word) (v' : Byte) : (s.setCycles n).busWrite w' v' = s.busWrite w' v' := rfl
@[simp] theorem State.setCycles_flag (s : State) (n : Option Nat) (f' : Flag) : (s.setCycles n).flag f' = s.flag f' := rfl
@[simp] theorem State.setCycles_reg (s : State) (n : Option Nat) (r' : Reg) : (s.setCycles n).reg r' = s.reg r' := by cases r' <;> rfl

/-! ### addDiag -/

@[simp] theorem State.addDiag_a (s : State) (d : Diag) : (s.addDiag d).a = s.a := rfl
@[simp] theorem State.addDiag_x (s : State) (d : Diag) : (s.addDiag d).x = s.x := rfl
@[simp] theorem State.addDiag_y (s : State) (d : Diag) : (s.addDiag d).y = s.y := rfl
@[simp] theorem State.addDiag_sp (s : State) (d : Diag) : (s.addDiag d).sp = s.sp := rfl
@[simp] theorem State.addDiag_p (s : State) (d : Diag) : (s.addDiag d).p = s.p := rfl
@[simp] theorem State.addDiag_pc (s : State) (d : Diag) : (s.addDiag d).pc = s.pc := rfl
@[simp] theorem State.addDiag_mem (s : State) (d : Diag) : (s.addDiag d).mem = s.mem := rfl
@[simp] theorem State.addDiag_windows (s : State) (d : Diag) : (s.addDiag d).windows = s.windows := rfl
@[simp] theorem State.addDiag_busFailures (s : State) (d : Diag) : (s.addDiag d).busFailures = s.busFailures := rfl
@[simp] theorem State.addDiag_busHistory (s : State) (d : Diag) : (s.addDiag d).busHistory = s.busHistory := rfl
@[simp] theorem State.addDiag_cycles (s : State) (d : Diag) : (s.addDiag d).cycles = s.cycles := rfl
@[simp] theorem State.addDiag_diags (s : State) (d : Diag) : (s.addDiag d).diags = s.diags ++ [d] := rfl
@[simp] theorem State.addDiag_accesses (s : State) (d : Diag) : (s.addDiag d).accesses = s.accesses := rfl
@[simp] theorem State.addDiag_readByte (s : State) (d : Diag) (w' : Word) : (s.addDiag d).readByte w' = s.readByte w' := rfl
@[simp] theorem State.addDiag_busFailure (s : State) (d : Diag) (k' : AccessKind) (w' : Word) : (s.addDiag d).busFailure k' w' = s.busFailure k' w' := rfl
@[simp] theorem State.addDiag_behind (s : State) (d : Diag) (w' : Word) : (s.addDiag d).behind w' = s.behind w' := rfl
@[simp] theorem State.addDiag_asked (s : State) (d : Diag) : (s.addDiag d).asked = s.asked := rfl
@[simp] theorem State.addDiag_busRead (s : State) (d : Diag) (w' : Word) : (s.addDiag d).busRead w' = s.busRead w' := rfl
@[simp] theorem State.addDiag_busWrite (s : State) (d : Diag) (w' : Word) (v' : Byte) : (s.addDiag d).busWrite w' v' = s.busWrite w' v' := rfl
@[simp] theorem State.addDiag_flag (s : State) (d : Diag) (f' : Flag) : (s.addDiag d).flag f' = s.flag f' := rfl
@[simp] theorem State.addDiag_reg (s : State) (d : Diag) (r' : Reg) : (s.addDiag d).reg r' = s.reg r' := by cases r' <;> rfl

/-! ### logAccess -/

@[simp] theorem State.logAccess_a (s : State) (b : BusAccess) : (s.logAccess b).a = s.a := rfl
@[simp] theorem State.logAccess_x (s : State) (b : BusAccess) : (s.logAccess b).x = s.x := rfl
@[simp] theorem State.logAccess_y (s : State) (b : BusAccess) : (s.logAccess b).y = s.y := rfl
@[simp] theorem State.logAccess_sp (s : State) (b : BusAccess) : (s.logAccess b).sp = s.sp := rfl
@[simp] theorem State.logAccess_p (s : State) (b : BusAccess) : (s.logAccess b).p = s.p := rfl
@[simp] theorem State.logAccess_pc (s : State) (b : BusAccess) : (s.logAccess b).pc = s.pc := rfl
@[simp] theorem State.logAccess_mem (s : State) (b : BusAccess) : (s.logAccess b).mem = s.mem := rfl
@[simp] theorem State.logAccess_windows (s : State) (b : BusAccess) : (s.logAccess b).windows = s.windows := rfl
@[simp] theorem State.logAccess_busFailures (s : State) (b : BusAccess) : (s.logAccess b).busFailures = s.busFailures := rfl
@[simp] theorem State.logAccess_busHistory (s : State) (b : BusAccess) : (s.logAccess b).busHistory = s.busHistory := rfl
@[simp] theorem State.logAccess_cycles (s : State) (b : BusAccess) : (s.logAccess b).cycles = s.cycles := rfl
@[simp] theorem State.logAccess_diags (s : State) (b : BusAccess) : (s.logAccess b).diags = s.diags := rfl
@[simp] theorem State.logAccess_accesses (s : State) (b : BusAccess) : (s.logAccess b).accesses = s.accesses ++ [b] := rfl
@[simp] theorem State.logAccess_readByte (s : State) (b : BusAccess) (w' : Word) : (s.logAccess b).readByte w' = s.readByte w' := rfl
@[simp] theorem State.logAccess_busFailure (s : State) (b : BusAccess) (k' : AccessKind) (w' : Word) : (s.logAccess b).busFailure k' w' = s.busFailure k' w' := rfl
@[simp] theorem State.logAccess_behind (s : State) (b : BusAccess) (w' : Word) : (s.logAccess b).behind w' = s.behind w' := rfl
@[simp] theorem State.logAccess_flag (s : State) (b : BusAccess) (f' : Flag) : (s.logAccess b).flag f' = s.flag f' := rfl
@[simp] theorem State.logAccess_reg (s : State) (b : BusAccess) (r' : Reg) : (s.logAccess b).reg r' = s.reg r' := by cases r' <;> rfl

/-! ### clearOutputs -/

@[simp] theorem State.clearOutputs_a (s : State) : (s.clearOutputs).a = s.a := rfl
@[simp] theorem State.clearOutputs_x (s : State) : (s.clearOutputs).x = s.x := rfl
@[simp] theorem State.clearOutputs_y (s : State) : (s.clearOutputs).y = s.y := rfl
@[simp] theorem State.clearOutputs_sp (s : State) : (s.clearOutputs).sp = s.sp := rfl
@[simp] theorem State.clearOutputs_p (s : State) : (s.clearOutputs).p = s.p := rfl
@[simp] theorem State.clearOutputs_pc (s : State) : (s.clearOutputs).pc = s.pc := rfl
@[simp] theorem State.clearOutputs_mem (s : State) : (s.clearOutputs).mem = s.mem := rfl
@[simp] theorem State.clearOutputs_windows (s : State) : (s.clearOutputs).windows = s.windows := rfl
@[simp] theorem State.clearOutputs_busFailures (s : State) : (s.clearOutputs).busFailures = s.busFailures := rfl
@[simp] theorem State.clearOutputs_busHistory (s : State) : (s.clearOutputs).busHistory = s.asked := rfl
@[simp] theorem State.clearOutputs_cycles (s : State) : (s.clearOutputs).cycles = none := rfl
@[simp] theorem State.clearOutputs_diags (s : State) : (s.clearOutputs).diags = [] := rfl
@[simp] theorem State.clearOutputs_accesses (s : State) : (s.clearOutputs).accesses = [] := rfl
@[simp] theorem State.clearOutputs_readByte (s : State) (w' : Word) : (s.clearOutputs).readByte w' = s.readByte w' := rfl
@[simp] theorem State.clearOutputs_busFailure (s : State) (k' : AccessKind) (w' : Word) : (s.clearOutputs).busFailure k' w' = s.busFailure k' w' := rfl
@[simp] theorem State.clearOutputs_behind (s : State) (w' : Word) : (s.clearOutputs).behind w' = s.behind w' := rfl
@[simp] theorem State.clearOutputs_flag (s : State) (f' : Flag) : (s.clearOutputs).flag f' = s.flag f' := rfl
@[simp] theorem State.clearOutputs_reg (s : State) (r' : Reg) : (s.clearOutputs).reg r' = s.reg r' := by cases r' <;> rfl

/-! ### incrementPC -/

@[simp] theorem State.incrementPC_a (s : State) : (s.incrementPC).a = s.a := rfl
@[simp] theorem State.incrementPC_x (s : State) : (s.incrementPC).x = s.x := rfl
@[simp] theorem State.incrementPC_y (s : State) : (s.incrementPC).y = s.y := rfl
@[simp] theorem State.incrementPC_sp (s : State) : (s.incrementPC).sp = s.sp := rfl
@[simp] theorem State.incrementPC_p (s : State) : (s.incrementPC).p = s.p := rfl
@[simp] theorem State.incrementPC_pc (s : State) : (s.incrementPC).pc = s.pc + 1 := rfl
@[simp] theorem State.incrementPC_mem (s : State) : (s.incrementPC).mem = s.mem := rfl
@[simp] theorem State.incrementPC_windows (s : State) : (s.incrementPC).windows = s.windows := rfl
@[simp] theorem State.incrementPC_busFailures (s : State) : (s.incrementPC).busFailures = s.busFailures := rfl
@[simp] theorem State.incrementPC_busHistory (s : State) : (s.incrementPC).busHistory = s.busHistory := rfl
@[simp] theorem State.incrementPC_cycles (s : State) : (s.incrementPC).cycles = s.cycles := rfl
@[simp] theorem State.incrementPC_diags (s : State) : (s.incrementPC).diags = s.diags := rfl
@[simp] theorem State.incrementPC_accesses (s : State) : (s.incrementPC).accesses = s.accesses := rfl
@[simp] theorem State.incrementPC_readByte (s : State) (w' : Word) : (s.incrementPC).readByte w' = s.readByte w' := rfl
@[simp] theorem State.incrementPC_busFailure (s : State) (k' : AccessKind) (w' : Word) : (s.incrementPC).busFailure k' w' = s.busFailure k' w' := rfl
@[simp] theorem State.incrementPC_behind (s : State) (w' : Word) : (s.incrementPC).behind w' = s.behind w' := rfl
@[simp] theorem State.incrementPC_asked (s : State) : (s.incrementPC).asked = s.asked := rfl
@[simp] theorem State.incrementPC_busRead (s : State) (w' : Word) : (s.incrementPC).busRead w' = s.busRead w' := rfl
@[simp] theorem State.incrementPC_busWrite (s : State) (w' : Word) (v' : Byte) : (s.incrementPC).busWrite w' v' = s.busWrite w' v' := rfl
@[simp] theorem State.incrementPC_flag (s : State) (f' : Flag) : (s.incrementPC).flag f' = s.flag f' := rfl
@[simp] theorem State.incrementPC_reg (s : State) (r' : Reg) : (s.incrementPC).reg r' = s.reg r' := by cases r' <;> rfl

/-! ### decrementPC -/

@[simp] theorem State.decrementPC_a (s : State) : (s.decrementPC).a = s.a := rfl
@[simp] theorem State.decrementPC_x (s : State) : (s.decrementPC).x = s.x := rfl
@[simp] theorem State.decrementPC_y (s : State) : (s.decrementPC).y = s.y := rfl
@[simp] theorem State.decrementPC_sp (s : State) : (s.decrementPC).sp = s.sp := rfl
@[simp] theorem State.decrementPC_p (s : State) : (s.decrementPC).p = s.p := rfl
@[simp] theorem State.decrementPC_pc (s : State) : (s.decrementPC).pc = s.pc - 1 := rfl
@[simp] theorem State.decrementPC_mem (s : State) : (s.decrementPC).mem = s.mem := rfl
@[simp] theorem State.decrementPC_windows (s : State) : (s.decrementPC).windows = s.windows := rfl
@[simp] theorem State.decrementPC_busFailures (s : State) : (s.decrementPC).busFailures = s.busFailures := rfl
@[simp] theorem State.decrementPC_busHistory (s : State) : (s.decrementPC).busHistory = s.busHistory := rfl
@[simp] theorem State.decrementPC_cycles (s : State) : (s.decrementPC).cycles = s.cycles := rfl
@[simp] theorem State.decrementPC_diags (s : State) : (s.decrementPC).diags = s.diags := rfl
@[simp] theorem State.decrementPC_accesses (s : State) : (s.decrementPC).accesses = s.accesses := rfl
@[simp] theorem State.decrementPC_readByte (s : State) (w' : Word) : (s.decrementPC).readByte w' = s.readByte w' := rfl
@[simp] theorem State.decrementPC_busFailure (s : State) (k' : AccessKind) (w' : Word) : (s.decrementPC).busFailure k' w' = s.busFailure k' w' := rfl
@[simp] theorem State.decrementPC_behind (s : State) (w' : Word) : (s.decrementPC).behind w' = s.behind w' := rfl
@[simp] theorem State.decrementPC_asked (s : State) : (s.decrementPC).asked = s.asked := rfl
@[simp] theorem State.decrementPC_busRead (s : State) (w' : Word) : (s.decrementPC).busRead w' = s.busRead w' := rfl
@[simp] theorem State.decrementPC_busWrite (s : State) (w' : Word) (v' : Byte) : (s.decrementPC).busWrite w' v' = s.busWrite w' v' := rfl
@[simp] theorem State.decrementPC_flag (s : State) (f' : Flag) : (s.decrementPC).flag f' = s.flag f' := rfl
@[simp] theorem State.decrementPC_reg (s : State) (r' : Reg) : (s.decrementPC).reg r' = s.reg r' := by cases r' <;> rfl

/-! ### setFlag -/

@[simp] theorem State.setFlag_a (s : State) (f : Flag) (v : Bool) : (s.setFlag f v).a = s.a := rfl
@[simp] theorem State.setFlag_x (s : State) (f : Flag) (v : Bool) : (s.setFlag f v).x = s.x := rfl
@[simp] theorem State.setFlag_y (s : State) (f : Flag) (v : Bool) : (s.setFlag f v).y = s.y := rfl
@[simp] theorem State.setFlag_sp (s : State) (f : Flag) (v : Bool) : (s.setFlag f v).sp = s.sp := rfl
@[simp] theorem State.setFlag_p (s : State) (f : Flag) (v : Bool) : (s.setFlag f v).p = Machine.setFlag s.p f v := rfl
@[simp] theorem State.setFlag_pc (s : State) (f : Flag) (v : Bool) : (s.setFlag f v).pc = s.pc := rfl
@[simp] theorem State.setFlag_mem (s : State) (f : Flag) (v : Bool) : (s.setFlag f v).mem = s.mem := rfl
@[simp] theorem State.setFlag_windows (s : State) (f : Flag) (v : Bool) : (s.setFlag f v).windows = s.windows := rfl
@[simp] theorem State.setFlag_busFailures (s : State) (f : Flag) (v : Bool) : (s.setFlag f v).busFailures = s.busFailures := rfl
@[simp] theorem State.setFlag_busHistory (s : State) (f : Flag) (v : Bool) : (s.setFlag f v).busHistory = s.busHistory := rfl
@[simp] theorem State.setFlag_cycles (s : State) (f : Flag) (v : Bool) : (s.setFlag f v).cycles = s.cycles := rfl
@[simp] theorem State.setFlag_diags (s : State) (f : Flag) (v : Bool) : (s.setFlag f v).diags = s.diags := rfl
@[simp] theorem State.setFlag_accesses (s : State) (f : Flag) (v : Bool) : (s.setFlag f v).accesses = s.accesses := rfl
@[simp] theorem State.setFlag_readByte (s : State) (f : Flag) (v : Bool) (w' : Word) : (s.setFlag f v).readByte w' = s.readByte w' := rfl
@[simp] theorem State.setFlag_busFailure (s : State) (f : Flag) (v : Bool) (k' : AccessKind) (w' : Word) : (s.setFlag f v).busFailure k' w' = s.busFailure k' w' := rfl
@[simp] theorem State.setFlag_behind (s : State) (f : Flag) (v : Bool) (w' : Word) : (s.setFlag f v).behind w' = s.behind w' := rfl
@[simp] theorem State.setFlag_asked (s : State) (f : Flag) (v : Bool) : (s.setFlag f v).asked = s.asked := rfl
@[simp] theorem State.setFlag_busRead (s : State) (f : Flag) (v : Bool) (w' : Word) : (s.setFlag f v).busRead w' = s.busRead w' := rfl
@[simp] theorem State.setFlag_busWrite (s : State) (f : Flag) (v : Bool) (w' : Word) (v' : Byte) : (s.setFlag f v).busWrite w' v' = s.busWrite w' v' := rfl
@[simp] theorem State.setFlag_reg (s : State) (f : Flag) (v : Bool) (r' : Reg) : (s.setFlag f v).reg r' = s.reg r' := by cases r' <;> rfl

/-! ### setNZ -/

@[simp] theorem State.setNZ_a (s : State) (v : Byte) : (s.setNZ v).a = s.a := rfl
@[simp] theorem State.setNZ_x (s : State) (v : Byte) : (s.setNZ v).x = s.x := rfl
@[simp] theorem State.setNZ_y (s : State) (v : Byte) : (s.setNZ v).y = s.y := rfl
@[simp] theorem State.setNZ_sp (s : State) (v : Byte) : (s.setNZ v).sp = s.sp := rfl
@[simp] theorem State.setNZ_p (s : State) (v : Byte) : (s.setNZ v).p = Machine.setNZ s.p v := rfl
@[simp] theorem State.setNZ_pc (s : State) (v : Byte) : (s.setNZ v).pc = s.pc := rfl
@[simp] theorem State.setNZ_mem (s : State) (v : Byte) : (s.setNZ v).mem = s.mem := rfl
@[simp] theorem State.setNZ_windows (s : State) (v : Byte) : (s.setNZ v).windows = s.windows := rfl
@[simp] theorem State.setNZ_busFailures (s : State) (v : Byte) : (s.setNZ v).busFailures = s.busFailures := rfl
@[simp] theorem State.setNZ_busHistory (s : State) (v : Byte) : (s.setNZ v).busHistory = s.busHistory := rfl
@[simp] theorem State.setNZ_cycles (s : State) (v : Byte) : (s.setNZ v).cycles = s.cycles := rfl
@[simp] theorem State.setNZ_diags (s : State) (v : Byte) : (s.setNZ v).diags = s.diags := rfl
@[simp] theorem State.setNZ_accesses (s : State) (v : Byte) : (s.setNZ v).accesses = s.accesses := rfl
@[simp] theorem State.setNZ_readByte (s : State) (v : Byte) (w' : Word) : (s.setNZ v).readByte w' = s.readByte w' := rfl
@[simp] theorem State.setNZ_busFailure (s : State) (v : Byte) (k' : AccessKind) (w' : Word) : (s.setNZ v).busFailure k' w' = s.busFailure k' w' := rfl
@[simp] theorem State.setNZ_behind (s : State) (v : Byte) (w' : Word) : (s.setNZ v).behind w' = s.behind w' := rfl
@[simp] theorem State.setNZ_asked (s : State) (v : Byte) : (s.setNZ v).asked = s.asked := rfl
@[simp] theorem State.setNZ_busRead (s : State) (v : Byte) (w' : Word) : (s.setNZ v).busRead w' = s.busRead w' := rfl
@[simp] theorem State.setNZ_busWrite (s : State) (v : Byte) (w' : Word) (v' : Byte) : (s.setNZ v).busWrite w' v' = s.busWrite w' v' := rfl
@[simp] theorem State.setNZ_reg (s : State) (v : Byte) (r' : Reg) : (s.setNZ v).reg r' = s.reg r' := by cases r' <;> rfl

/-! ### writeByte -/

@[simp] theorem State.writeByte_a (s : State) (k : Word) (v : Byte) : (s.writeByte k v).a = s.a := rfl
@[simp] theorem State.writeByte_x (s : State) (k : Word) (v : Byte) : (s.writeByte k v).x = s.x := rfl
@[simp] theorem State.writeByte_y (s : State) (k : Word) (v : Byte) : (s.writeByte k v).y = s.y := rfl
@[simp] theorem State.writeByte_sp (s : State) (k : Word) (v : Byte) : (s.writeByte k v).sp = s.sp := rfl
@[simp] theorem State.writeByte_p (s : State) (k : Word) (v : Byte) : (s.writeByte k v).p = s.p := rfl
@[simp] theorem State.writeByte_pc (s : State) (k : Word) (v : Byte) : (s.writeByte k v).pc = s.pc := rfl
@[simp] theorem State.writeByte_mem (s : State) (k : Word) (v : Byte) : (s.writeByte k v).mem = s.mem.write k.toNat v := rfl
@[simp] theorem State.writeByte_windows (s : State) (k : Word) (v : Byte) : (s.writeByte k v).windows = s.windows := rfl
@[simp] theorem State.writeByte_busFailures (s : State) (k : Word) (v : Byte) : (s.writeByte k v).busFailures = s.busFailures := rfl
@[simp] theorem State.writeByte_busHistory (s : State) (k : Word) (v : Byte) : (s.writeByte k v).busHistory = s.busHistory := rfl
@[simp] theorem State.writeByte_cycles (s : State) (k : Word) (v : Byte) : (s.writeByte k v).cycles = s.cycles := rfl
@[simp] theorem State.writeByte_diags (s : State) (k : Word) (v : Byte) : (s.writeByte k v).diags = s.diags := rfl
@[simp] theorem State.writeByte_accesses (s : State) (k : Word) (v : Byte) : (s.writeByte k v).accesses = s.accesses := rfl
@[simp] theorem State.writeByte_busFailure (s : State) (k : Word) (v : Byte) (k' : AccessKind) (w' : Word) : (s.writeByte k v).busFailure k' w' = s.busFailure k' w' := rfl
@[simp] theorem State.writeByte_behind (s : State) (k : Word) (v : Byte) (w' : Word) : (s.writeByte k v).behind w' = s.behind w' := rfl
@[simp] theorem State.writeByte_asked (s : State) (k : Word) (v : Byte) : (s.writeByte k v).asked = s.asked := rfl
@[simp] theorem State.writeByte_flag (s : State) (k : Word) (v : Byte) (f' : Flag) : (s.writeByte k v).flag f' = s.flag f' := rfl
@[simp] theorem State.writeByte_reg (s : State) (k : Word) (v : Byte) (r' : Reg) : (s.writeByte k v).reg r' = s.reg r' := by cases r' <;> rfl

/-! ### charge -/

@[simp] theorem State.charge_a (s : State) (mn : Mnemonic) (mode : Mode) (n : Nat) : (s.charge mn mode n).a = s.a := rfl
@[simp] theorem State.charge_x (s : State) (mn : Mnemonic) (mode : Mode) (n : Nat) : (s.charge mn mode n).x = s.x := rfl
@[simp] theorem State.charge_y (s : State) (mn : Mnemonic) (mode : Mode) (n : Nat) : (s.charge mn mode n).y = s.y := rfl
@[simp] theorem State.charge_sp (s : State) (mn : Mnemonic) (mode : Mode) (n : Nat) : (s.charge mn mode n).sp = s.sp := rfl
@[simp] theorem State.charge_p (s : State) (mn : Mnemonic) (mode : Mode) (n : Nat) : (s.charge mn mode n).p = s.p := rfl
@[simp] theorem State.charge_pc (s : State) (mn : Mnemonic) (mode : Mode) (n : Nat) : (s.charge mn mode n).pc = s.pc := rfl
@[simp] theorem State.charge_mem (s : State) (mn : Mnemonic) (mode : Mode) (n : Nat) : (s.charge mn mode n).mem = s.mem := rfl
@[simp] theorem State.charge_windows (s : State) (mn : Mnemonic) (mode : Mode) (n : Nat) : (s.charge mn mode n).windows = s.windows := rfl
@[simp] theorem State.charge_busFailures (s : State) (mn : Mnemonic) (mode : Mode) (n : Nat) : (s.charge mn mode n).busFailures = s.busFailures := rfl
@[simp] theorem State.charge_busHistory (s : State) (mn : Mnemonic) (mode : Mode) (n : Nat) : (s.charge mn mode n).busHistory = s.busHistory := rfl
@[simp] theorem State.charge_cycles (s : State) (mn : Mnemonic) (mode : Mode) (n : Nat) : (s.charge mn mode n).cycles = (baseCycles mn mode).map (· + n) := rfl
@[simp] theorem State.charge_diags (s : State) (mn : Mnemonic) (mode : Mode) (n : Nat) : (s.charge mn mode n).diags = s.diags := rfl
@[simp] theorem State.charge_accesses (s : State) (mn : Mnemonic) (mode : Mode) (n : Nat) : (s.charge mn mode n).accesses = s.accesses := rfl
@[simp] theorem State.charge_readByte (s : State) (mn : Mnemonic) (mode : Mode) (n : Nat) (w' : Word) : (s.charge mn mode n).readByte w' = s.readByte w' := rfl
@[simp] theorem State.charge_busFailure (s : State) (mn : Mnemonic) (mode : Mode) (n : Nat) (k' : AccessKind) (w' : Word) : (s.charge mn mode n).busFailure k' w' = s.busFailure k' w' := rfl
@[simp] theorem State.charge_behind (s : State) (mn : Mnemonic) (mode : Mode) (n : Nat) (w' : Word) : (s.charge mn mode n).behind w' = s.behind w' := rfl
@[simp] theorem State.charge_asked (s : State) (mn : Mnemonic) (mode : Mode) (n : Nat) : (s.charge mn mode n).asked = s.asked := rfl
@[simp] theorem State.charge_busRead (s : State) (mn : Mnemonic) (mode : Mode) (n : Nat) (w' : Word) : (s.charge mn mode n).busRead w' = s.busRead w' := rfl
@[simp] theorem State.charge_busWrite (s : State) (mn : Mnemonic) (mode : Mode) (n : Nat) (w' : Word) (v' : Byte) : (s.charge mn mode n).busWrite w' v' = s.busWrite w' v' := rfl
@[simp] theorem State.charge_flag (s : State) (mn : Mnemonic) (mode : Mode) (n : Nat) (f' : Flag) : (s.charge mn mode n).flag f' = s.flag f' := rfl
@[simp] theorem State.charge_reg (s : State) (mn : Mnemonic) (mode : Mode) (n : Nat) (r' : Reg) : (s.charge mn mode n).reg r' = s.reg r' := by cases r' <;> rfl

/-! ### What the bus was asked -/

@[simp] theorem State.clearOutputs_asked (s : State) : s.clearOutputs.asked = s.asked := rfl
@[simp] theorem State.clearOutputs_busRead (s : State) (a : Word) : s.clearOutputs.busRead a = s.busRead a := rfl
@[simp] theorem State.clearOutputs_busWrite (s : State) (a : Word) (v : Byte) :
    s.clearOutputs.busWrite a v = s.busWrite a v := rfl
@[simp] theorem State.logAccess_asked (s : State) (b : BusAccess) : (s.logAccess b).asked = b :: s.asked := by
  simp [State.asked]

/-! ### Registers by name -/

@[simp] theorem State.reg_a (s : State) : s.reg .a = s.a := rfl
@[simp] theorem State.reg_x (s : State) : s.reg .x = s.x := rfl
@[simp] theorem State.reg_y (s : State) : s.reg .y = s.y := rfl
@[simp] theorem State.reg_sp (s : State) : s.reg .sp = s.sp := rfl
@[simp] theorem State.setReg_a (s : State) (v : Byte) : s.setReg .a v = s.setA v := rfl
@[simp] theorem State.setReg_x (s : State) (v : Byte) : s.setReg .x v = s.setX v := rfl
@[simp] theorem State.setReg_y (s : State) (v : Byte) : s.setReg .y v = s.setY v := rfl
@[simp] theorem State.setReg_sp (s : State) (v : Byte) : s.setReg .sp v = s.setSP v := rfl

theorem State.setReg_reg_same (s : State) (r : Reg) (v : Byte) : (s.setReg r v).reg r = v := by
  cases r <;> rfl

theorem State.setReg_reg_other (s : State) (r q : Reg) (v : Byte) (h : q ≠ r) : (s.setReg r v).reg q = s.reg q := by
  cases r <;> cases q <;> first | rfl | exact absurd rfl h

@[simp] theorem State.setReg_p (s : State) (r : Reg) (v : Byte) : (s.setReg r v).p = s.p := by
  cases r <;> rfl
@[simp] theorem State.setReg_pc (s : State) (r : Reg) (v : Byte) : (s.setReg r v).pc = s.pc := by
  cases r <;> rfl
@[simp] theorem State.setReg_mem (s : State) (r : Reg) (v : Byte) : (s.setReg r v).mem = s.mem := by
  cases r <;> rfl
@[simp] theorem State.setReg_windows (s : State) (r : Reg) (v : Byte) : (s.setReg r v).windows = s.windows := by
  cases r <;> rfl
@[simp] theorem State.setReg_busFailures (s : State) (r : Reg) (v : Byte) : (s.setReg r v).busFailures = s.busFailures := by
  cases r <;> rfl
@[simp] theorem State.setReg_busHistory (s : State) (r : Reg) (v : Byte) : (s.setReg r v).busHistory = s.busHistory := by
  cases r <;> rfl
@[simp] theorem State.setReg_cycles (s : State) (r : Reg) (v : Byte) : (s.setReg r v).cycles = s.cycles := by
  cases r <;> rfl
@[simp] theorem State.setReg_diags (s : State) (r : Reg) (v : Byte) : (s.setReg r v).diags = s.diags := by
  cases r <;> rfl
@[simp] theorem State.setReg_accesses (s : State) (r : Reg) (v : Byte) : (s.setReg r v).accesses = s.accesses := by
  cases r <;> rfl
@[simp] theorem State.setReg_readByte (s : State) (r : Reg) (v : Byte) (k : Word) :
    (s.setReg r v).readByte k = s.readByte k := by cases r <;> rfl
@[simp] theorem State.setReg_busRead (s : State) (r : Reg) (v : Byte) (k : Word) :
    (s.setReg r v).busRead k = s.busRead k := by cases r <;> rfl
@[simp] theorem State.setReg_busWrite (s : State) (r : Reg) (v : Byte) (k : Word) (w : Byte) :
    (s.setReg r v).busWrite k w = s.busWrite k w := by cases r <;> rfl
@[simp] theorem State.setReg_flag (s : State) (r : Reg) (v : Byte) (f : Flag) :
    (s.setReg r v).flag f = s.flag f := by cases r <;> rfl

end Sys2Proof.Machine
end

