-- ==== Sys2Proof/Laws/Bus.lean ====
section
/-! SUPPORT. Each bus and stack operation once: when it succeeds and what it then leaves, and when it fails.
The provers cite these and do not unfold the operations. -/

namespace Sys2Proof.Machine

/-! ### Sequencing -/

theorem bind_ok {ε α β : Type} {x : Except ε α} {f : α → Except ε β} {b : β} :
    (x >>= f) = .ok b ↔ ∃ a, x = .ok a ∧ f a = .ok b := by
  cases x <;> simp [bind, Except.bind]

theorem bind_error {ε α β : Type} {x : Except ε α} {f : α → Except ε β} {e : ε} :
    (x >>= f) = .error e ↔ x = .error e ∨ ∃ a, x = .ok a ∧ f a = .error e := by
  cases x <;> simp [bind, Except.bind]

@[simp] theorem ok_bind {ε α β : Type} (a : α) (f : α → Except ε β) : ((Except.ok a : Except ε α) >>= f) = f a := rfl
@[simp] theorem error_bind {ε α β : Type} (e : ε) (f : α → Except ε β) :
    ((Except.error e : Except ε α) >>= f) = .error e := rfl

theorem pure_ok {ε α : Type} {a b : α} : (pure a : Except ε α) = .ok b ↔ a = b := by
  simp [pure, Except.pure]

@[simp] theorem pure_eq_ok {ε α : Type} (a : α) : (pure a : Except ε α) = .ok a := rfl

theorem finish_next {r : Except Fault State} {t : State} : finish r = .next t ↔ r = .ok t := by
  cases r <;> simp [finish]

theorem finish_fault {r : Except Fault State} {f : Fault} : finish r = .fault f ↔ r = .error f := by
  cases r <;> simp [finish]

theorem finish_not_refused (r : Except Fault State) (q : Refusal) : finish r ≠ .refused q := by
  cases r <;> simp [finish]

@[simp] theorem finish_ok (t : State) : finish (.ok t) = .next t := rfl
@[simp] theorem finish_error (f : Fault) : finish (.error f) = .fault f := rfl

/-! ### One access -/

@[simp] theorem State.busSetup_eq_iff {s t : State} : t.busSetup = s.busSetup ↔
    t.windows = s.windows ∧ t.busFailures = s.busFailures ∧ t.busHistory = s.busHistory := by
  simp [State.busSetup]

theorem busRead_of_plain {s : State} {k : AccessKind} (h : s.plainRam) (a : Word) : s.busRead a k = .ok (s.readByte a) := by
  simp [State.busRead, State.busFailure, State.behind, h.1, h.2]

theorem busWrite_of_plain {s : State} {k : AccessKind} (h : s.plainRam) (a : Word) (v : Byte) :
    s.busWrite a v k = .ok (s.mem.write a.toNat v) := by
  simp [State.busWrite, State.busFailure, State.behind, State.stored, h.1, h.2]

/-- What the bus answers depends on its memory, its windows, its failures and what it has been asked, and on nothing else. -/
theorem busRead_congr {s t : State} (hm : t.mem = s.mem) (hw : t.windows = s.windows)
    (hf : t.busFailures = s.busFailures) (ha : t.asked = s.asked) (a : Word) : t.busRead a = s.busRead a := by
  simp only [State.busRead, State.busFailure, State.behind, State.readByte, hm, hw, hf, ha]

theorem busWrite_congr {s t : State} (hm : t.mem = s.mem) (hw : t.windows = s.windows)
    (hf : t.busFailures = s.busFailures) (ha : t.asked = s.asked) (a : Word) (v : Byte) :
    t.busWrite a v = s.busWrite a v := by
  simp only [State.busWrite, State.busFailure, State.behind, State.stored, hm, hw, hf, ha]

/-- An access the bus always fails is failed. -/
theorem busRead_of_failure {s : State} {a : Word} {f : BusFailure} (h : s.busFailure .read a = some f) :
    s.busRead a = .error f := by
  simp only [State.busRead, h]

theorem busWrite_of_failure {s : State} {a : Word} {f : BusFailure} {v : Byte} (h : s.busFailure .write a = some f) :
    s.busWrite a v = .error f := by
  simp only [State.busWrite, h]

/-- Where no window is, a read that is not always failed gives the byte of memory. -/
theorem busRead_of_noWindows {s : State} (h : s.windows = []) {a : Word} (hf : s.busFailure .read a = none) :
    s.busRead a = .ok (s.readByte a) := by
  simp [State.busRead, hf, State.behind, h]

/-- Where no window is, what a read gives is the byte of memory. -/
theorem busRead_eq_readByte {s : State} (h : s.windows = []) {a : Word} {v : Byte} (hr : s.busRead a = .ok v) :
    v = s.readByte a := by
  cases hf : s.busFailure .read a with
  | some f => simp [State.busRead, hf] at hr
  | none =>
    rw [busRead_of_noWindows h hf] at hr
    exact (Except.ok.inj hr).symm

/-- Where no window is, an accepted write is stored. -/
theorem busWrite_eq_write {s : State} (h : s.windows = []) {a : Word} {v : Byte} {m : Memory}
    (hw : s.busWrite a v = .ok m) : m = s.mem.write a.toNat v := by
  cases hf : s.busFailure .write a with
  | some f => simp [State.busWrite, hf] at hw
  | none =>
    simp only [State.busWrite, hf, State.behind, h, State.stored, List.find?_nil, Except.ok.injEq] at hw
    exact hw.symm

theorem wf_stored {s : State} (h : s.mem.wf = true) (a : Word) (v : Byte) : (s.stored a v).wf = true := by
  unfold State.stored
  split
  · exact Memory.wf_write _ _ _ a.isLt h
  · rename_i b _
    exact Memory.wf_write _ _ _ b.isLt h
  · exact h
  · exact h

/-- A write that the bus accepts leaves memory stored, ignored or redirected. -/
theorem busWrite_ok {s : State} {k : AccessKind} {a : Word} {v : Byte} {m : Memory} (h : s.busWrite a v k = .ok m) :
    m = s.stored a v := by
  unfold State.busWrite at h
  split at h
  · simp at h
  · split at h
    · exact (Except.ok.inj h).symm
    · exact (Except.ok.inj h).symm
    · exact (Except.ok.inj h).symm
    · split at h
      · exact (Except.ok.inj h).symm
      · simp at h

theorem memRead_ok_iff {a : Word} {s t : State} {v : Byte} :
    memRead a s = .ok (v, t) ↔ s.busRead a = .ok v ∧ t = s.logAccess ⟨.read, a, v⟩ := by
  unfold memRead
  cases h : s.busRead a with
  | error f => simp
  | ok w =>
    simp only [Except.ok.injEq, Prod.mk.injEq]
    constructor
    · rintro ⟨rfl, rfl⟩
      exact ⟨rfl, rfl⟩
    · rintro ⟨rfl, rfl⟩
      exact ⟨rfl, rfl⟩

theorem memRead_error_iff {a : Word} {s : State} {f : Fault} :
    memRead a s = .error f ↔ ∃ b, s.busRead a = .error b ∧ f = .busFault b (s.busLeft ⟨.read, a, 0x00⟩) := by
  unfold memRead
  cases h : s.busRead a <;> simp [eq_comm]

theorem memWrite_ok_iff {a : Word} {v : Byte} {s t : State} :
    memWrite a v s = .ok t ↔ ∃ m, s.busWrite a v = .ok m ∧ t = (s.setMem m).logAccess ⟨.write, a, v⟩ := by
  unfold memWrite
  cases h : s.busWrite a v <;> simp [eq_comm]

theorem memWrite_error_iff {a : Word} {v : Byte} {s : State} {f : Fault} :
    memWrite a v s = .error f ↔ ∃ b, s.busWrite a v = .error b ∧ f = .busFault b (s.busLeft ⟨.write, a, v⟩) := by
  unfold memWrite
  cases h : s.busWrite a v <;> simp [eq_comm]

/-- A failed access names itself: its kind and its address. -/
theorem busRead_fails {s : State} {a : Word} {f : BusFailure} (h : s.busRead a = .error f) : s.fails f := by
  have e : f.kind = .read ∧ f.address = a := by
    unfold State.busRead at h
    split at h
    · rename_i g hg
      obtain rfl := Except.error.inj h
      simpa using List.find?_some hg
    · split at h
      · simp at h
      · simp at h
      · simp at h
      · split at h
        · simp at h
        · obtain rfl := Except.error.inj h
          exact ⟨rfl, rfl⟩
  exact .inl ⟨e.1, by rw [e.2]; exact h⟩

theorem busWrite_fails {s : State} {a : Word} {v : Byte} {f : BusFailure} (h : s.busWrite a v = .error f) : s.fails f := by
  have e : f.kind = .write ∧ f.address = a := by
    unfold State.busWrite at h
    split at h
    · rename_i g hg
      obtain rfl := Except.error.inj h
      simpa using List.find?_some hg
    · split at h
      · simp at h
      · simp at h
      · simp at h
      · split at h
        · simp at h
        · obtain rfl := Except.error.inj h
          exact ⟨rfl, rfl⟩
  exact .inr ⟨e.1, v, by rw [e.2]; exact h⟩

theorem memRead_of_plain {s : State} (h : s.plainRam) (a : Word) :
    memRead a s = .ok (s.readByte a, s.logAccess ⟨.read, a, s.readByte a⟩) :=
  memRead_ok_iff.2 ⟨busRead_of_plain h a, rfl⟩

theorem memWrite_of_plain {s : State} (h : s.plainRam) (a : Word) (v : Byte) :
    memWrite a v s = .ok ((s.writeByte a v).logAccess ⟨.write, a, v⟩) :=
  memWrite_ok_iff.2 ⟨_, busWrite_of_plain h a v, rfl⟩

/-! ### Other agents -/

/-- Another agent's read leaves the core and memory alone; the bus remembers it. -/
theorem foreignRead_state (a : Word) (s : State) :
    ∃ b, (foreignRead a s).2 = s.logAccess ⟨.foreignRead, a, b⟩ := by
  unfold foreignRead
  split <;> exact ⟨_, rfl⟩

/-- Another agent's write leaves the core alone; memory takes it or, where the bus fails it, does not. -/
theorem foreignWrite_state (a : Word) (v : Byte) (s : State) :
    ∃ m, (m = s.mem ∨ m = s.stored a v) ∧ (foreignWrite a v s).2 = (s.setMem m).logAccess ⟨.foreignWrite, a, v⟩ := by
  unfold foreignWrite
  split
  · exact ⟨_, .inr (busWrite_ok ‹_›), rfl⟩
  · exact ⟨_, .inl rfl, rfl⟩

theorem foreignRead_of_plain {s : State} (h : s.plainRam) (a : Word) :
    foreignRead a s = (.ok (s.readByte a), s.logAccess ⟨.foreignRead, a, s.readByte a⟩) := by
  simp only [foreignRead, busRead_of_plain h]

theorem foreignWrite_of_plain {s : State} (h : s.plainRam) (a : Word) (v : Byte) :
    foreignWrite a v s = (.ok (), (s.writeByte a v).logAccess ⟨.foreignWrite, a, v⟩) := by
  simp only [foreignWrite, busWrite_of_plain h]
  rfl

theorem wf_foreignRead {s : State} (h : s.wf = true) (a : Word) : (foreignRead a s).2.wf = true := by
  obtain ⟨b, e⟩ := foreignRead_state a s
  rw [e]
  exact h

theorem wf_foreignWrite {s : State} (h : s.wf = true) (a : Word) (v : Byte) : (foreignWrite a v s).2.wf = true := by
  obtain ⟨m, hm, e⟩ := foreignWrite_state a v s
  rw [e]
  rcases hm with rfl | rfl
  · exact h
  · exact wf_stored h a v

/-! ### Operations that only read -/

/-- What reading leaves unchanged, on any bus: everything but what the bus was asked since the step began. -/
structure SameButTrace (s t : State) : Prop where
  a : t.a = s.a
  x : t.x = s.x
  y : t.y = s.y
  sp : t.sp = s.sp
  p : t.p = s.p
  pc : t.pc = s.pc
  mem : t.mem = s.mem
  bus : t.busSetup = s.busSetup
  cycles : t.cycles = s.cycles
  diags : t.diags = s.diags

theorem SameButTrace.refl (s : State) : SameButTrace s s := ⟨rfl, rfl, rfl, rfl, rfl, rfl, rfl, rfl, rfl, rfl⟩

theorem SameButTrace.trans {s t u : State} (h : SameButTrace s t) (g : SameButTrace t u) : SameButTrace s u :=
  ⟨g.a.trans h.a, g.x.trans h.x, g.y.trans h.y, g.sp.trans h.sp, g.p.trans h.p, g.pc.trans h.pc, g.mem.trans h.mem,
    g.bus.trans h.bus, g.cycles.trans h.cycles, g.diags.trans h.diags⟩

theorem SameButTrace.flag {s t : State} (h : SameButTrace s t) (f : Flag) : t.flag f = s.flag f := by
  rw [State.flag, State.flag, h.p]

theorem SameButTrace.reg {s t : State} (h : SameButTrace s t) (r : Reg) : t.reg r = s.reg r := by
  cases r
  · exact h.a
  · exact h.x
  · exact h.y
  · exact h.sp

theorem SameButTrace.readByte {s t : State} (h : SameButTrace s t) (a : Word) : t.readByte a = s.readByte a := by
  rw [State.readByte, State.readByte, h.mem]

theorem memRead_same {a : Word} {s t : State} {v : Byte} (h : memRead a s = .ok (v, t)) : SameButTrace s t := by
  obtain ⟨-, rfl⟩ := memRead_ok_iff.1 h
  constructor <;> rfl

/-- Two reads, one after the other, of a low and a high byte. -/
theorem readPair_same {lo hi : Word} {s t : State} {w : Word}
    (h : (do
      let (l, s1) ← memRead lo s
      let (k, s2) ← memRead hi s1
      return (joinBytes k l, s2)) = Except.ok (ε := Fault) (w, t)) : SameButTrace s t := by
  obtain ⟨⟨l, s1⟩, h1, h⟩ := bind_ok.1 h
  obtain ⟨⟨k, s2⟩, h2, h⟩ := bind_ok.1 h
  simp only [pure_eq_ok, Except.ok.injEq, Prod.mk.injEq] at h
  obtain ⟨-, rfl⟩ := h
  exact (memRead_same h1).trans (memRead_same h2)

theorem read16_same {a : Word} {s t : State} {w : Word} (h : read16 a s = .ok (w, t)) : SameButTrace s t :=
  readPair_same h

theorem read16ZP_same {z : Byte} {s t : State} {w : Word} (h : read16ZP z s = .ok (w, t)) : SameButTrace s t :=
  readPair_same h

theorem read16Bug_same {p : Word} {s t : State} {w : Word} (h : read16Bug p s = .ok (w, t)) : SameButTrace s t :=
  readPair_same h

/-- The accesses that reading a list of addresses makes on the plain-RAM bus. -/
def readTrace (s : State) (l : List Word) : List BusAccess := l.map (fun a => ⟨.read, a, s.readByte a⟩)

/-- The state with those reads added to its trace. -/
def State.withReads (s : State) (l : List Word) : State := { s with accesses := s.accesses ++ readTrace s l }

@[simp] theorem State.withReads_nil (s : State) : s.withReads [] = s := by simp [State.withReads, readTrace]

@[simp] theorem State.withReads_readByte (s : State) (l : List Word) (a : Word) :
    (s.withReads l).readByte a = s.readByte a := rfl

/-- The address of the high byte of the AbsoluteIndirect pointer: in the same page (20_memory.md R68). -/
def bugHiAddress (p : Word) : Word := joinBytes (hiByte p) (loByte p + 1)

theorem readPair_of_plain {s : State} (h : s.plainRam) (lo hi : Word) :
    (do
      let (l, s1) ← memRead lo s
      let (k, s2) ← memRead hi s1
      return (joinBytes k l, s2)) =
      Except.ok (ε := Fault) (joinBytes (s.readByte hi) (s.readByte lo), s.withReads [lo, hi]) := by
  simp only [memRead_of_plain h, ok_bind, memRead_of_plain (s := s.logAccess ⟨.read, lo, s.readByte lo⟩) h]
  simp [State.withReads, readTrace, State.logAccess, State.readByte]

theorem read16_of_plain {s : State} (h : s.plainRam) (a : Word) :
    read16 a s = .ok (joinBytes (s.readByte (a + 1)) (s.readByte a), s.withReads [a, a + 1]) :=
  readPair_of_plain h _ _

theorem read16ZP_of_plain {s : State} (h : s.plainRam) (z : Byte) :
    read16ZP z s = .ok (joinBytes (s.readByte (zext (z + 1))) (s.readByte (zext z)),
      s.withReads [zext z, zext (z + 1)]) :=
  readPair_of_plain h _ _

theorem read16Bug_of_plain {s : State} (h : s.plainRam) (p : Word) :
    read16Bug p s = .ok (joinBytes (s.readByte (bugHiAddress p)) (s.readByte p), s.withReads [p, bugHiAddress p]) :=
  readPair_of_plain h _ _

/-! ### The stack -/

theorem stackAddress_toNat (sp : Byte) : (stackAddress sp).toNat = 0x0100 + sp.toNat := by
  have := sp.isLt
  simp only [stackAddress, Config.stackBase, BitVec.toNat_add, zext_toNat, show (0x0100 : Word).toNat = 256 from rfl]
  omega

theorem stackAddress_inj {a b : Byte} : stackAddress a = stackAddress b ↔ a = b := by
  refine ⟨fun h => BitVec.eq_of_toNat_eq ?_, fun h => h ▸ rfl⟩
  have := congrArg BitVec.toNat h
  simp only [stackAddress_toNat] at this
  omega

/-- The diagnostics of a push made at `sp`. -/
def pushDiags (sp : Byte) : List Diag := if sp = 0xFF#8 then [.stackOverflow] else []

/-- The diagnostics of a pop made at `sp`. -/
def popDiags (sp : Byte) : List Diag := if sp = 0x00#8 then [.stackUnderflow] else []

/-- The state a push leaves when the bus leaves memory `m` (20_memory.md R64). -/
def State.pushedTo (s : State) (v : Byte) (m : Memory) : State :=
  { s with
    mem := m
    sp := s.sp + 1
    diags := s.diags ++ pushDiags s.sp
    accesses := s.accesses ++ [⟨.write, stackAddress s.sp, v⟩] }

/-- The state a push leaves on the plain-RAM bus. -/
def State.pushed (s : State) (v : Byte) : State := s.pushedTo v (s.mem.write (stackAddress s.sp).toNat v)

/-- The state a pop leaves when the bus answers `v` (20_memory.md R65). -/
def State.poppedAs (s : State) (v : Byte) : State :=
  { s with
    sp := s.sp - 1
    diags := s.diags ++ popDiags s.sp
    accesses := s.accesses ++ [⟨.read, stackAddress (s.sp - 1), v⟩] }

/-- The state a pop leaves on the plain-RAM bus. -/
def State.popped (s : State) : State := s.poppedAs (s.readByte (stackAddress (s.sp - 1)))

/-- Push: exactly when it succeeds, and the state it leaves. -/
theorem push_ok_iff {v : Byte} {s t : State} :
    push v s = .ok t ↔ ∃ m, s.busWrite (stackAddress s.sp) v = .ok m ∧ t = s.pushedTo v m := by
  by_cases h : s.sp = 0xFF#8
  · simp only [push, h, if_true, State.addDiag_sp, bind_ok, memWrite_ok_iff, State.addDiag_busWrite, pure_eq_ok,
      Except.ok.injEq]
    constructor
    · rintro ⟨_, ⟨m, h1, rfl⟩, rfl⟩
      exact ⟨m, h1, by simp [State.pushedTo, pushDiags, h, State.setSP, State.logAccess, State.setMem, State.addDiag]⟩
    · rintro ⟨m, h1, rfl⟩
      exact ⟨_, ⟨m, h1, rfl⟩, by simp [State.pushedTo, pushDiags, h, State.setSP, State.logAccess, State.setMem, State.addDiag]⟩
  · simp only [push, h, if_false, bind_ok, memWrite_ok_iff, pure_eq_ok, Except.ok.injEq]
    constructor
    · rintro ⟨_, ⟨m, h1, rfl⟩, rfl⟩
      exact ⟨m, h1, by simp [State.pushedTo, pushDiags, h, State.setSP, State.logAccess, State.setMem]⟩
    · rintro ⟨m, h1, rfl⟩
      exact ⟨_, ⟨m, h1, rfl⟩, by simp [State.pushedTo, pushDiags, h, State.setSP, State.logAccess, State.setMem]⟩

theorem push_error_iff {v : Byte} {s : State} {f : Fault} :
    push v s = .error f ↔ ∃ b, s.busWrite (stackAddress s.sp) v = .error b ∧
      f = .busFault b (s.busLeft ⟨.write, stackAddress s.sp, v⟩) := by
  by_cases h : s.sp = 0xFF#8 <;> simp [push, h, bind_error, memWrite_error_iff, State.busLeft]

/-- Pop: exactly when it succeeds, the byte it gives and the state it leaves. -/
theorem pop_ok_iff {s t : State} {v : Byte} :
    pop s = .ok (v, t) ↔ s.busRead (stackAddress (s.sp - 1)) = .ok v ∧ t = s.poppedAs v := by
  by_cases h : s.sp = 0x00#8
  · simp [pop, h, memRead_ok_iff, State.poppedAs, popDiags, State.logAccess, State.setSP, State.addDiag]
    exact fun _ => Iff.rfl
  · simp [pop, h, memRead_ok_iff, State.poppedAs, popDiags, State.logAccess, State.setSP]
    exact fun _ => Iff.rfl

theorem pop_error_iff {s : State} {f : Fault} :
    pop s = .error f ↔ ∃ b, s.busRead (stackAddress (s.sp - 1)) = .error b ∧
      f = .busFault b (s.busLeft ⟨.read, stackAddress (s.sp - 1), 0x00⟩) := by
  by_cases h : s.sp = 0x00#8 <;> simp [pop, h, memRead_error_iff, State.busLeft]

section
variable (s : State) (v : Byte)
@[simp] theorem State.pushedTo_a (m : Memory) : (s.pushedTo v m).a = s.a := rfl
@[simp] theorem State.pushedTo_x (m : Memory) : (s.pushedTo v m).x = s.x := rfl
@[simp] theorem State.pushedTo_y (m : Memory) : (s.pushedTo v m).y = s.y := rfl
@[simp] theorem State.pushedTo_sp (m : Memory) : (s.pushedTo v m).sp = s.sp + 1 := rfl
@[simp] theorem State.pushedTo_p (m : Memory) : (s.pushedTo v m).p = s.p := rfl
@[simp] theorem State.pushedTo_pc (m : Memory) : (s.pushedTo v m).pc = s.pc := rfl
@[simp] theorem State.pushedTo_mem (m : Memory) : (s.pushedTo v m).mem = m := rfl
@[simp] theorem State.pushedTo_windows (m : Memory) : (s.pushedTo v m).windows = s.windows := rfl
@[simp] theorem State.pushedTo_busFailures (m : Memory) : (s.pushedTo v m).busFailures = s.busFailures := rfl
@[simp] theorem State.pushedTo_busHistory (m : Memory) : (s.pushedTo v m).busHistory = s.busHistory := rfl
@[simp] theorem State.pushedTo_cycles (m : Memory) : (s.pushedTo v m).cycles = s.cycles := rfl
@[simp] theorem State.pushedTo_diags (m : Memory) : (s.pushedTo v m).diags = s.diags ++ pushDiags s.sp := rfl
@[simp] theorem State.pushedTo_accesses (m : Memory) : (s.pushedTo v m).accesses = s.accesses ++ [⟨.write, stackAddress s.sp, v⟩] := rfl
@[simp] theorem State.pushedTo_flag (m : Memory) (f : Flag) : (s.pushedTo v m).flag f = s.flag f := rfl
@[simp] theorem State.pushedTo_self : s.pushedTo v (s.mem.write (stackAddress s.sp).toNat v) = s.pushed v := rfl

@[simp] theorem State.pushed_a : (s.pushed v).a = s.a := rfl
@[simp] theorem State.pushed_x : (s.pushed v).x = s.x := rfl
@[simp] theorem State.pushed_y : (s.pushed v).y = s.y := rfl
@[simp] theorem State.pushed_sp : (s.pushed v).sp = s.sp + 1 := rfl
@[simp] theorem State.pushed_p : (s.pushed v).p = s.p := rfl
@[simp] theorem State.pushed_pc : (s.pushed v).pc = s.pc := rfl
@[simp] theorem State.pushed_mem : (s.pushed v).mem = s.mem.write (stackAddress s.sp).toNat v := rfl
@[simp] theorem State.pushed_windows : (s.pushed v).windows = s.windows := rfl
@[simp] theorem State.pushed_busFailures : (s.pushed v).busFailures = s.busFailures := rfl
@[simp] theorem State.pushed_busHistory : (s.pushed v).busHistory = s.busHistory := rfl
@[simp] theorem State.pushed_cycles : (s.pushed v).cycles = s.cycles := rfl
@[simp] theorem State.pushed_diags : (s.pushed v).diags = s.diags ++ pushDiags s.sp := rfl
@[simp] theorem State.pushed_accesses : (s.pushed v).accesses = s.accesses ++ [⟨.write, stackAddress s.sp, v⟩] := rfl
@[simp] theorem State.pushed_flag (f : Flag) : (s.pushed v).flag f = s.flag f := rfl
@[simp] theorem State.pushed_readByte_same : (s.pushed v).readByte (stackAddress s.sp) = v :=
  Memory.read_write_same _ _ _
theorem State.pushed_readByte_other {b : Word} (h : b ≠ stackAddress s.sp) :
    (s.pushed v).readByte b = s.readByte b :=
  Memory.read_write_other _ _ _ _ (fun hb => h (BitVec.eq_of_toNat_eq hb))

@[simp] theorem State.poppedAs_a : (s.poppedAs v).a = s.a := rfl
@[simp] theorem State.poppedAs_x : (s.poppedAs v).x = s.x := rfl
@[simp] theorem State.poppedAs_y : (s.poppedAs v).y = s.y := rfl
@[simp] theorem State.poppedAs_sp : (s.poppedAs v).sp = s.sp - 1 := rfl
@[simp] theorem State.poppedAs_p : (s.poppedAs v).p = s.p := rfl
@[simp] theorem State.poppedAs_pc : (s.poppedAs v).pc = s.pc := rfl
@[simp] theorem State.poppedAs_mem : (s.poppedAs v).mem = s.mem := rfl
@[simp] theorem State.poppedAs_windows : (s.poppedAs v).windows = s.windows := rfl
@[simp] theorem State.poppedAs_busFailures : (s.poppedAs v).busFailures = s.busFailures := rfl
@[simp] theorem State.poppedAs_busHistory : (s.poppedAs v).busHistory = s.busHistory := rfl
@[simp] theorem State.poppedAs_cycles : (s.poppedAs v).cycles = s.cycles := rfl
@[simp] theorem State.poppedAs_diags : (s.poppedAs v).diags = s.diags ++ popDiags s.sp := rfl
@[simp] theorem State.poppedAs_accesses : (s.poppedAs v).accesses = s.accesses ++ [⟨.read, stackAddress (s.sp - 1), v⟩] := rfl
@[simp] theorem State.poppedAs_flag (f : Flag) : (s.poppedAs v).flag f = s.flag f := rfl
@[simp] theorem State.poppedAs_readByte (w : Word) : (s.poppedAs v).readByte w = s.readByte w := rfl
@[simp] theorem State.poppedAs_self : s.poppedAs (s.readByte (stackAddress (s.sp - 1))) = s.popped := rfl

@[simp] theorem State.popped_a : (s.popped).a = s.a := rfl
@[simp] theorem State.popped_x : (s.popped).x = s.x := rfl
@[simp] theorem State.popped_y : (s.popped).y = s.y := rfl
@[simp] theorem State.popped_sp : (s.popped).sp = s.sp - 1 := rfl
@[simp] theorem State.popped_p : (s.popped).p = s.p := rfl
@[simp] theorem State.popped_pc : (s.popped).pc = s.pc := rfl
@[simp] theorem State.popped_mem : (s.popped).mem = s.mem := rfl
@[simp] theorem State.popped_windows : (s.popped).windows = s.windows := rfl
@[simp] theorem State.popped_busFailures : (s.popped).busFailures = s.busFailures := rfl
@[simp] theorem State.popped_busHistory : (s.popped).busHistory = s.busHistory := rfl
@[simp] theorem State.popped_cycles : (s.popped).cycles = s.cycles := rfl
@[simp] theorem State.popped_diags : (s.popped).diags = s.diags ++ popDiags s.sp := rfl
@[simp] theorem State.popped_accesses : (s.popped).accesses = 
    s.accesses ++ [⟨.read, stackAddress (s.sp - 1), s.readByte (stackAddress (s.sp - 1))⟩] := rfl
@[simp] theorem State.popped_flag (f : Flag) : (s.popped).flag f = s.flag f := rfl
@[simp] theorem State.popped_readByte (w : Word) : s.popped.readByte w = s.readByte w := rfl
end

/-- Two pushes, high byte first. -/
theorem pushWord_ok_iff {w : Word} {s t : State} :
    pushWord w s = .ok t ↔ ∃ m n, s.busWrite (stackAddress s.sp) (hiByte w) = .ok m ∧
      (s.pushedTo (hiByte w) m).busWrite (stackAddress (s.sp + 1)) (loByte w) = .ok n ∧
      t = (s.pushedTo (hiByte w) m).pushedTo (loByte w) n := by
  simp only [pushWord, bind_ok, push_ok_iff]
  constructor
  · rintro ⟨_, ⟨m, h1, rfl⟩, n, h2, rfl⟩
    exact ⟨m, n, h1, h2, rfl⟩
  · rintro ⟨m, n, h1, h2, rfl⟩
    exact ⟨_, ⟨m, h1, rfl⟩, n, h2, rfl⟩

/-- Two pops, low byte first. -/
theorem popWord_ok_iff {s t : State} {w : Word} :
    popWord s = .ok (w, t) ↔ ∃ lo hi, s.busRead (stackAddress (s.sp - 1)) = .ok lo ∧
      (s.poppedAs lo).busRead (stackAddress (s.sp - 1 - 1)) = .ok hi ∧ w = joinBytes hi lo ∧
      t = (s.poppedAs lo).poppedAs hi := by
  simp only [popWord, bind_ok, Prod.exists, pop_ok_iff, pure_eq_ok, Except.ok.injEq, Prod.mk.injEq]
  constructor
  · rintro ⟨lo, _, ⟨h1, rfl⟩, hi, _, ⟨h2, rfl⟩, rfl, rfl⟩
    exact ⟨lo, hi, h1, h2, rfl, rfl⟩
  · rintro ⟨lo, hi, h1, h2, rfl, rfl⟩
    exact ⟨lo, _, ⟨h1, rfl⟩, hi, _, ⟨h2, rfl⟩, rfl, rfl⟩

theorem pushWord_error {w : Word} {s : State} {f : Fault} (h : pushWord w s = .error f) : ∃ b l, f = .busFault b l := by
  rcases bind_error.1 h with h | ⟨t, -, h⟩
  · obtain ⟨b, -, rfl⟩ := push_error_iff.1 h; exact ⟨b, _, rfl⟩
  · obtain ⟨b, -, rfl⟩ := push_error_iff.1 h; exact ⟨b, _, rfl⟩

theorem popWord_error {s : State} {f : Fault} (h : popWord s = .error f) : ∃ b l, f = .busFault b l := by
  rcases bind_error.1 h with h | ⟨⟨lo, t⟩, -, h⟩
  · obtain ⟨b, -, rfl⟩ := pop_error_iff.1 h; exact ⟨b, _, rfl⟩
  · rcases bind_error.1 h with h | ⟨⟨hi, u⟩, -, h⟩
    · obtain ⟨b, -, rfl⟩ := pop_error_iff.1 h; exact ⟨b, _, rfl⟩
    · simp at h

end Sys2Proof.Machine
end

