-- ==== Sys2Proof/Laws/Operands.lean ====
section
/-! SUPPORT. The resolver once: it only reads, it answers for every mode that has an address, and it fails only
by a failed bus access or an illegal mode. -/

namespace Sys2Proof.Machine

/-- The modes that have an effective address (30_encoding.md R120). -/
def addressable : Mode → Bool
  | .implied | .accumulator | .immediate | .relative => false
  | _ => true

/-- The modes `Operand` serves: Immediate and those with an address (30_encoding.md R121). -/
def readable (m : Mode) : Bool := m == .immediate || addressable m

/-- The pointer bytes the resolver reads (30_encoding.md R120). -/
def pointerReads (o : Operand) (s : State) : List Word :=
  match o with
  | .indirectX z => [zext (z + s.x), zext (z + s.x + 1)]
  | .indirectY z => [zext z, zext (z + 1)]
  | .absoluteIndirect w => [w, bugHiAddress w]
  | _ => []

/-- The address and page-cross indication the resolver gives (30_encoding.md R120, R122). -/
def resolvedAs (o : Operand) (s : State) : Resolved :=
  match o with
  | .zeroPage z => ⟨zext z, false⟩
  | .zeroPageIndexedX z => ⟨zext (z + s.x), false⟩
  | .zeroPageIndexedY z => ⟨zext (z + s.y), false⟩
  | .absolute w => ⟨w, false⟩
  | .absoluteIndexedX w => indexed w s.x
  | .absoluteIndexedY w => indexed w s.y
  | .indirectX z => ⟨joinBytes (s.readByte (zext (z + s.x + 1))) (s.readByte (zext (z + s.x))), false⟩
  | .indirectY z => indexed (joinBytes (s.readByte (zext (z + 1))) (s.readByte (zext z))) s.y
  | .absoluteIndirect w => ⟨joinBytes (s.readByte (bugHiAddress w)) (s.readByte w), false⟩
  | _ => ⟨0, false⟩

/-- If the resolver answers, the mode has an address and nothing but reads were made, on any bus. -/
theorem resolveAddress_ok {o : Operand} {s t : State} {r : Resolved} (h : resolveAddress o s = .ok (r, t)) :
    addressable o.mode = true ∧ SameButTrace s t := by
  cases o with
  | indirectX z =>
    obtain ⟨⟨w, s1⟩, h1, h⟩ := bind_ok.1 h
    simp only [pure_eq_ok, Except.ok.injEq, Prod.mk.injEq] at h
    obtain ⟨-, rfl⟩ := h
    exact ⟨rfl, read16ZP_same h1⟩
  | indirectY z =>
    obtain ⟨⟨w, s1⟩, h1, h⟩ := bind_ok.1 h
    simp only [pure_eq_ok, Except.ok.injEq, Prod.mk.injEq] at h
    obtain ⟨-, rfl⟩ := h
    exact ⟨rfl, read16ZP_same h1⟩
  | absoluteIndirect w =>
    obtain ⟨⟨w, s1⟩, h1, h⟩ := bind_ok.1 h
    simp only [pure_eq_ok, Except.ok.injEq, Prod.mk.injEq] at h
    obtain ⟨-, rfl⟩ := h
    exact ⟨rfl, read16Bug_same h1⟩
  | _ =>
    simp only [resolveAddress, Except.ok.injEq, Prod.mk.injEq, reduceCtorEq] at h
    try (obtain ⟨-, rfl⟩ := h; exact ⟨rfl, SameButTrace.refl _⟩)

/-- On the plain-RAM bus the resolver answers `resolvedAs` when the mode has an address, and reads the pointer bytes. -/
theorem resolveAddress_of_plain {o : Operand} {s : State} (ho : addressable o.mode = true) (h : s.plainRam) :
    resolveAddress o s = .ok (resolvedAs o s, s.withReads (pointerReads o s)) := by
  cases o with
  | indirectX z => simp [resolveAddress, read16ZP_of_plain h, resolvedAs, pointerReads]
  | indirectY z =>
    simp only [resolveAddress, read16ZP_of_plain h, resolvedAs, pointerReads, ok_bind]
    rfl
  | absoluteIndirect w => simp [resolveAddress, read16Bug_of_plain h, resolvedAs, pointerReads]
  | _ => first | (simp [addressable, Operand.mode] at ho; done) | simp [resolveAddress, resolvedAs, pointerReads]

theorem read16ZP_error {z : Byte} {s : State} {f : Fault} (h : read16ZP z s = .error f) : ∃ b l, f = .busFault b l := by
  rcases bind_error.1 h with h | ⟨⟨lo, t⟩, -, h⟩
  · obtain ⟨b, -, rfl⟩ := memRead_error_iff.1 h; exact ⟨b, _, rfl⟩
  · rcases bind_error.1 h with h | ⟨⟨hi, u⟩, -, h⟩
    · obtain ⟨b, -, rfl⟩ := memRead_error_iff.1 h; exact ⟨b, _, rfl⟩
    · simp at h

theorem read16Bug_error {p : Word} {s : State} {f : Fault} (h : read16Bug p s = .error f) : ∃ b l, f = .busFault b l := by
  rcases bind_error.1 h with h | ⟨⟨lo, t⟩, -, h⟩
  · obtain ⟨b, -, rfl⟩ := memRead_error_iff.1 h; exact ⟨b, _, rfl⟩
  · rcases bind_error.1 h with h | ⟨⟨hi, u⟩, -, h⟩
    · obtain ⟨b, -, rfl⟩ := memRead_error_iff.1 h; exact ⟨b, _, rfl⟩
    · simp at h

theorem read16_error {a : Word} {s : State} {f : Fault} (h : read16 a s = .error f) : ∃ b l, f = .busFault b l := by
  rcases bind_error.1 h with h | ⟨⟨lo, t⟩, -, h⟩
  · obtain ⟨b, -, rfl⟩ := memRead_error_iff.1 h; exact ⟨b, _, rfl⟩
  · rcases bind_error.1 h with h | ⟨⟨hi, u⟩, -, h⟩
    · obtain ⟨b, -, rfl⟩ := memRead_error_iff.1 h; exact ⟨b, _, rfl⟩
    · simp at h

/-- On a mode with an address the resolver fails only by a failed bus access. -/
theorem resolveAddress_error {o : Operand} {s : State} {f : Fault} (ho : addressable o.mode = true)
    (h : resolveAddress o s = .error f) : ∃ b l, f = .busFault b l := by
  cases o with
  | indirectX z =>
    rcases bind_error.1 h with h | ⟨⟨w, t⟩, -, h⟩
    · exact read16ZP_error h
    · simp at h
  | indirectY z =>
    rcases bind_error.1 h with h | ⟨⟨w, t⟩, -, h⟩
    · exact read16ZP_error h
    · simp at h
  | absoluteIndirect w =>
    rcases bind_error.1 h with h | ⟨⟨w, t⟩, -, h⟩
    · exact read16Bug_error h
    · simp at h
  | _ => first | (simp [addressable, Operand.mode] at ho; done) | simp [resolveAddress] at h

/-- The value and page-cross indication `Operand` gives (30_encoding.md R121). -/
def operandAs (o : Operand) (s : State) : OperandValue :=
  match o with
  | .immediate v => ⟨v, false⟩
  | o => ⟨s.readByte (resolvedAs o s).ea, (resolvedAs o s).crossed⟩

/-- The reads `Operand` makes: the pointer bytes, then the operand (30_encoding.md R121). -/
def operandReads (o : Operand) (s : State) : List Word :=
  match o with
  | .immediate _ => []
  | o => pointerReads o s ++ [(resolvedAs o s).ea]

theorem resolveOperand_eq {o : Operand} (ho : o.mode ≠ .immediate) (s : State) :
    resolveOperand o s = (do
      let (r, s1) ← resolveAddress o s
      let (v, s2) ← memRead r.ea s1
      return (⟨v, r.crossed⟩, s2)) := by
  cases o <;> first | rfl | exact absurd rfl ho

/-- If `Operand` answers, the mode is served and nothing but reads were made, on any bus. -/
theorem resolveOperand_ok {o : Operand} {s t : State} {m : OperandValue} (h : resolveOperand o s = .ok (m, t)) :
    readable o.mode = true ∧ SameButTrace s t := by
  by_cases ho : o.mode = .immediate
  · cases o <;> simp [Operand.mode] at ho
    simp only [resolveOperand, Except.ok.injEq, Prod.mk.injEq] at h
    obtain ⟨-, rfl⟩ := h
    exact ⟨rfl, SameButTrace.refl _⟩
  · rw [resolveOperand_eq ho] at h
    obtain ⟨⟨r, s1⟩, h1, h⟩ := bind_ok.1 h
    obtain ⟨⟨v, s2⟩, h2, h⟩ := bind_ok.1 h
    obtain ⟨hm, r1⟩ := resolveAddress_ok h1
    simp only [pure_eq_ok, Except.ok.injEq, Prod.mk.injEq] at h
    obtain ⟨-, rfl⟩ := h
    exact ⟨by simp [readable, hm], r1.trans (memRead_same h2)⟩

/-- On the plain-RAM bus `Operand` answers `operandAs` when the mode is served, and reads the operand's bytes. -/
theorem resolveOperand_of_plain {o : Operand} {s : State} (ho : readable o.mode = true) (h : s.plainRam) :
    resolveOperand o s = .ok (operandAs o s, s.withReads (operandReads o s)) := by
  by_cases hi : o.mode = .immediate
  · cases o <;> simp [Operand.mode] at hi
    simp [resolveOperand, operandAs, operandReads]
  · have ha : addressable o.mode = true := by simpa [readable, hi] using ho
    have hr : operandReads o s = pointerReads o s ++ [(resolvedAs o s).ea] := by
      cases o <;> first | exact absurd rfl hi | rfl
    have hv : operandAs o s = ⟨s.readByte (resolvedAs o s).ea, (resolvedAs o s).crossed⟩ := by
      cases o <;> first | exact absurd rfl hi | rfl
    rw [resolveOperand_eq hi, resolveAddress_of_plain ha h, hr, hv]
    simp only [ok_bind, memRead_of_plain (s := s.withReads (pointerReads o s)) h, pure_eq_ok]
    simp [State.withReads, readTrace, State.logAccess, State.readByte]

/-- On a mode it serves, `Operand` fails only by a failed bus access. -/
theorem resolveOperand_error {o : Operand} {s : State} {f : Fault} (ho : readable o.mode = true)
    (h : resolveOperand o s = .error f) : ∃ b l, f = .busFault b l := by
  by_cases hi : o.mode = .immediate
  · cases o <;> simp [Operand.mode] at hi
    simp [resolveOperand] at h
  · have ha : addressable o.mode = true := by simpa [readable, hi] using ho
    rw [resolveOperand_eq hi] at h
    rcases bind_error.1 h with h | ⟨⟨r, s1⟩, -, h⟩
    · exact resolveAddress_error ha h
    · rcases bind_error.1 h with h | ⟨⟨v, s2⟩, -, h⟩
      · obtain ⟨b, -, rfl⟩ := memRead_error_iff.1 h; exact ⟨b, _, rfl⟩
      · simp at h

section
variable (s : State) (l : List Word)
@[simp] theorem State.withReads_a : (s.withReads l).a = s.a := rfl
@[simp] theorem State.withReads_x : (s.withReads l).x = s.x := rfl
@[simp] theorem State.withReads_y : (s.withReads l).y = s.y := rfl
@[simp] theorem State.withReads_sp : (s.withReads l).sp = s.sp := rfl
@[simp] theorem State.withReads_p : (s.withReads l).p = s.p := rfl
@[simp] theorem State.withReads_pc : (s.withReads l).pc = s.pc := rfl
@[simp] theorem State.withReads_mem : (s.withReads l).mem = s.mem := rfl
@[simp] theorem State.withReads_windows : (s.withReads l).windows = s.windows := rfl
@[simp] theorem State.withReads_busFailures : (s.withReads l).busFailures = s.busFailures := rfl
@[simp] theorem State.withReads_busHistory : (s.withReads l).busHistory = s.busHistory := rfl
@[simp] theorem State.withReads_cycles : (s.withReads l).cycles = s.cycles := rfl
@[simp] theorem State.withReads_diags : (s.withReads l).diags = s.diags := rfl
@[simp] theorem State.withReads_accesses : (s.withReads l).accesses = s.accesses ++ readTrace s l := rfl
@[simp] theorem State.withReads_flag (f : Flag) : (s.withReads l).flag f = s.flag f := rfl
@[simp] theorem State.withReads_reg (r : Reg) : (s.withReads l).reg r = s.reg r := by cases r <;> rfl
end

end Sys2Proof.Machine
end

