-- ==== Sys2Proof/Laws/Dispatch.lean ====
section
/-! SUPPORT. exec as one rule per mnemonic, run with the operand of its mode (30_encoding.md R110): a proof over
instructions needs 56 cases, not 151. And that every instruction's mode is legal for its mnemonic. -/

namespace Sys2Proof.Machine

/-- The rule of a mnemonic, run with an operand. -/
def ruleOf (mn : Mnemonic) (o : Operand) (s : State) : Except Fault State :=
  match mn with
  | .lda => loadReg .lda .a o s
  | .ldx => loadReg .ldx .x o s
  | .ldy => loadReg .ldy .y o s
  | .sta => storeReg .sta .a o s
  | .stx => storeReg .stx .x o s
  | .sty => storeReg .sty .y o s
  | .tax => transfer .tax .a .x s
  | .tay => transfer .tay .a .y s
  | .tsx => transfer .tsx .sp .x s
  | .txa => transfer .txa .x .a s
  | .txs => transferNoFlags .txs .x .sp s
  | .tya => transfer .tya .y .a s
  | .adc => addWithCarry .adc o s
  | .sbc => subtractWithBorrow .sbc o s
  | .inc => modifyMemory .inc incByte o s
  | .dec => modifyMemory .dec decByte o s
  | .inx => modifyReg .inx incByte .x s
  | .iny => modifyReg .iny incByte .y s
  | .dex => modifyReg .dex decByte .x s
  | .dey => modifyReg .dey decByte .y s
  | .asl => shift .asl aslResult o s
  | .lsr => shift .lsr lsrResult o s
  | .rol => shift .rol rolResult o s
  | .ror => shift .ror rorResult o s
  | .and => logical .and andByte o s
  | .ora => logical .ora orByte o s
  | .eor => logical .eor xorByte o s
  | .cmp => compareReg .cmp .a o s
  | .cpx => compareReg .cpx .x o s
  | .cpy => compareReg .cpy .y o s
  | .bit => bitTest .bit o s
  | .bcc => match o with | .relative off => branch .bcc .c false off s | _ => .error (.illegalMode o.mode)
  | .bcs => match o with | .relative off => branch .bcs .c true off s | _ => .error (.illegalMode o.mode)
  | .beq => match o with | .relative off => branch .beq .z true off s | _ => .error (.illegalMode o.mode)
  | .bmi => match o with | .relative off => branch .bmi .n true off s | _ => .error (.illegalMode o.mode)
  | .bne => match o with | .relative off => branch .bne .z false off s | _ => .error (.illegalMode o.mode)
  | .bpl => match o with | .relative off => branch .bpl .n false off s | _ => .error (.illegalMode o.mode)
  | .bvc => match o with | .relative off => branch .bvc .v false off s | _ => .error (.illegalMode o.mode)
  | .bvs => match o with | .relative off => branch .bvs .v true off s | _ => .error (.illegalMode o.mode)
  | .clc => flagControl .clc .c false s
  | .cld => flagControl .cld .d false s
  | .cli => flagControl .cli .i false s
  | .clv => flagControl .clv .v false s
  | .sec => flagControl .sec .c true s
  | .sed => flagControl .sed .d true s
  | .sei => flagControl .sei .i true s
  | .jmp => jump .jmp o s
  | .jsr => jumpSubroutine .jsr o s
  | .rts => returnSubroutine .rts s
  | .brk => softwareInterrupt .brk s
  | .rti => returnInterrupt .rti s
  | .php => pushByte .php (pushedP s.p) s
  | .pha => pushByte .pha s.a s
  | .plp => pullStatus .plp s
  | .pla => pullAccumulator .pla s
  | .nop => noOperation .nop s

/-- exec runs the rule of the instruction's mnemonic with the instruction's operand. -/
theorem exec_eq_rule (i : Instr) (s : State) : exec i s = finish (ruleOf i.mnemonic i.operand s) := by
  cases i <;> rfl

theorem exec_of_mnemonic {i : Instr} {mn : Mnemonic} (h : i.mnemonic = mn) (s : State) :
    exec i s = finish (ruleOf mn i.operand s) := by
  rw [exec_eq_rule, h]

/-- Every instruction is well-formed: its mode is legal for its mnemonic (30_encoding.md R114). -/
theorem instr_legal (i : Instr) : legalMode i.mnemonic i.operand.mode = true := by
  cases i <;> rfl

theorem legal_of_mnemonic {i : Instr} {mn : Mnemonic} (h : i.mnemonic = mn) : legalMode mn i.operand.mode = true := by
  rw [← h]; exact instr_legal i

/-- An operand in the one mode a mnemonic has. -/
theorem operand_relative {o : Operand} (h : o.mode = .relative) : ∃ off, o = .relative off := by
  cases o <;> simp [Operand.mode] at h
  exact ⟨_, rfl⟩

theorem operand_implied {o : Operand} (h : o.mode = .implied) : o = .implied := by
  cases o <;> simp [Operand.mode] at h
  rfl

theorem operand_absolute {o : Operand} (h : o.mode = .absolute) : ∃ w, o = .absolute w := by
  cases o <;> simp [Operand.mode] at h
  exact ⟨_, rfl⟩

end Sys2Proof.Machine
end

