-- ==== Sys2Proof/Laws/Runs.lean ====
section
/-! SUPPORT. Every shared operation on any bus: it is a list of accesses that the bus answers, and the same answers on
another bus have the same effect; the first access the bus fails ends it with that report. `Runs` says so and is closed
under sequencing, so that it holds of whatever is made of these operations. -/

namespace Sys2Proof.Machine

/-! ### Serving a list of accesses -/

@[simp] theorem State.onBusOf_self (s : State) : s.onBusOf s = s := rfl
@[simp] theorem State.onBusOf_onBusOf (s t u : State) : s.onBusOf (t.onBusOf u) = s.onBusOf u := rfl
@[simp] theorem State.onBusOf_busRead (s u : State) (a : Word) : (s.onBusOf u).busRead a = u.busRead a := rfl
@[simp] theorem State.onBusOf_busWrite (s u : State) (a : Word) (v : Byte) : (s.onBusOf u).busWrite a v = u.busWrite a v := rfl
@[simp] theorem State.onBusOf_fails (s u : State) (f : BusFailure) : (s.onBusOf u).fails f = u.fails f := rfl

@[simp] theorem serve_nil (s : State) : s.serve [] = .ok s := rfl

theorem serve_cons (s : State) (acc : BusAccess) (tr : List BusAccess) :
    s.serve (acc :: tr) = s.serveOne acc >>= fun s1 => s1.serve tr := by
  cases h : s.serveOne acc <;> simp [State.serve, h]

theorem serve_append (s : State) (tr tr' : List BusAccess) :
    s.serve (tr ++ tr') = s.serve tr >>= fun u => u.serve tr' := by
  induction tr generalizing s with
  | nil => rfl
  | cons acc tr ih =>
    rw [List.cons_append, serve_cons, serve_cons]
    cases s.serveOne acc with
    | error e => rfl
    | ok u => simp [ih]

/-- What an accepted access leaves: memory and the trace change, and nothing else. -/
theorem serveOne_ok {s u : State} {acc : BusAccess} (h : s.serveOne acc = .ok u) :
    u = { s with mem := u.mem, accesses := s.accesses ++ [acc] } ∧ (s.wf = true → u.wf = true) := by
  obtain ⟨k, a, v⟩ := acc
  cases k with
  | read =>
    simp only [State.serveOne] at h
    split at h
    · split at h
      · obtain rfl := Except.ok.inj h
        exact ⟨rfl, id⟩
      · simp at h
    · simp at h
  | write =>
    simp only [State.serveOne] at h
    split at h
    · rename_i m hm
      obtain rfl := Except.ok.inj h
      exact ⟨rfl, fun hw => by rw [busWrite_ok hm]; exact wf_stored hw _ _⟩
    · simp at h
  | foreignRead => simp [State.serveOne] at h
  | foreignWrite => simp [State.serveOne] at h

/-- What a served list leaves: memory and the trace change, and nothing else; memory keeps its canonical form. -/
theorem serve_ok {s u : State} {tr : List BusAccess} (h : s.serve tr = .ok u) :
    u = { s with mem := u.mem, accesses := s.accesses ++ tr } ∧ (s.wf = true → u.wf = true) := by
  induction tr generalizing s with
  | nil =>
    obtain rfl := Except.ok.inj h
    exact ⟨by simp, id⟩
  | cons acc tr ih =>
    rw [serve_cons] at h
    obtain ⟨s1, h1, h⟩ := bind_ok.1 h
    obtain ⟨e1, w1⟩ := serveOne_ok h1
    obtain ⟨e2, w2⟩ := ih h
    refine ⟨?_, fun hw => w2 (w1 hw)⟩
    rw [e2, e1]
    simp

theorem serveOne_onBusOf (s u : State) (acc : BusAccess) :
    (s.onBusOf u).serveOne acc = (u.serveOne acc).map s.onBusOf := by
  obtain ⟨k, a, v⟩ := acc
  cases k with
  | read =>
    simp only [State.serveOne, State.onBusOf_busRead]
    split
    · split <;> rfl
    · rfl
  | write =>
    simp only [State.serveOne, State.onBusOf_busWrite]
    split <;> rfl
  | foreignRead => rfl
  | foreignWrite => rfl

/-- A read fails with a report exactly when the bus reports it, whatever byte is expected. -/
theorem serveOne_read_error {s : State} {a : Word} {v : Byte} {f : BusFailure} :
    s.serveOne ⟨.read, a, v⟩ = .error (some f) ↔ s.busRead a = .error f := by
  simp only [State.serveOne]
  cases s.busRead a with
  | error g => simp
  | ok w => by_cases h : w = v <;> simp [h]

theorem serveOne_write_error {s : State} {a : Word} {v : Byte} {f : BusFailure} :
    s.serveOne ⟨.write, a, v⟩ = .error (some f) ↔ s.busWrite a v = .error f := by
  simp only [State.serveOne]
  cases s.busWrite a v <;> simp

/-- An access that is failed with a report is one the bus fails so, and the report names it. -/
theorem serveOne_fails {s : State} {acc : BusAccess} {f : BusFailure} (h : s.serveOne acc = .error (some f)) :
    s.fails f := by
  obtain ⟨k, a, v⟩ := acc
  cases k with
  | read => exact busRead_fails (serveOne_read_error.1 h)
  | write => exact busWrite_fails (serveOne_write_error.1 h)
  | foreignRead => simp [State.serveOne] at h
  | foreignWrite => simp [State.serveOne] at h

theorem serve_one_error {s : State} {acc : BusAccess} {f : BusFailure} (h : s.serve ([] ++ [acc]) = .error (some f)) :
    s.serveOne acc = .error (some f) := by
  cases h1 : s.serveOne acc <;> simp [State.serve, h1] at h ⊢; exact h

/-- What is served is the core's own. -/
theorem serve_kind {s u : State} {tr : List BusAccess} (h : s.serve tr = .ok u) :
    ∀ acc ∈ tr, acc.kind = .read ∨ acc.kind = .write := by
  induction tr generalizing s with
  | nil => simp
  | cons acc tr ih =>
    rw [serve_cons] at h
    obtain ⟨s1, h1, h⟩ := bind_ok.1 h
    rintro b (_ | ⟨_, hb⟩)
    · obtain ⟨k, a, v⟩ := acc
      cases k <;> simp [State.serveOne] at h1 ⊢
    · exact ih h b hb

/-- The registers play no part in what the bus answers. -/
theorem serve_onBusOf (s u : State) (tr : List BusAccess) : (s.onBusOf u).serve tr = (u.serve tr).map s.onBusOf := by
  induction tr generalizing u with
  | nil => rfl
  | cons acc tr ih =>
    rw [serve_cons, serve_cons, serveOne_onBusOf]
    cases u.serveOne acc with
    | error e => rfl
    | ok w => exact ih w

/-- A list that is served when no access is always failed is served up to the first access that is. -/
theorem serve_firstFailure {s u : State} {tr : List BusAccess}
    (h : State.serve { s with busFailures := [] } tr = .ok u) :
    s.serve tr = match firstFailure s.busFailures tr with
      | some f => .error (some f)
      | none => .ok { u with busFailures := s.busFailures } := by
  induction tr generalizing s with
  | nil =>
    obtain rfl := Except.ok.inj h
    rfl
  | cons acc tr ih =>
    rw [serve_cons] at h
    obtain ⟨s1, h1, h⟩ := bind_ok.1 h
    have hs : s1.busFailures = [] := by rw [(serveOne_ok h1).1]
    have e1 : ({ s1 with busFailures := [] } : State) = s1 := by rw [← hs]
    have key : s.serveOne acc = match s.busFailures.find? (fun f => decide (f.kind = acc.kind ∧ f.address = acc.address)) with
        | some f => .error (some f)
        | none => .ok { s1 with busFailures := s.busFailures } := by
      obtain ⟨k, a, v⟩ := acc
      cases k with
      | foreignRead => simp [State.serveOne] at h1
      | foreignWrite => simp [State.serveOne] at h1
      | read =>
        cases hf : s.busFailures.find? (fun f => decide (f.kind = .read ∧ f.address = a)) with
        | some f => simp only [State.serveOne, busRead_of_failure hf]
        | none =>
          have e : s.busRead a = State.busRead { s with busFailures := [] } a := by
            simp only [State.busRead, State.busFailure, hf]
            rfl
          simp only [State.serveOne, ← e] at h1 ⊢
          split at h1
          · split at h1
            · rename_i hv
              obtain rfl := Except.ok.inj h1
              rw [if_pos hv]
              rfl
            · simp at h1
          · simp at h1
      | write =>
        cases hf : s.busFailures.find? (fun f => decide (f.kind = .write ∧ f.address = a)) with
        | some f => simp only [State.serveOne, busWrite_of_failure hf]
        | none =>
          have e : s.busWrite a v = State.busWrite { s with busFailures := [] } a v := by
            simp only [State.busWrite, State.busFailure, hf]
            rfl
          simp only [State.serveOne, ← e] at h1 ⊢
          split at h1
          · obtain rfl := Except.ok.inj h1
            rfl
          · simp at h1
    rw [serve_cons, key]
    simp only [firstFailure]
    cases s.busFailures.find? _ with
    | some f => rfl
    | none => exact ih (s := { s1 with busFailures := s.busFailures }) (by rw [← h]; exact congrArg (fun x => State.serve x tr) e1)

/-! ### Runs -/

/-- Reading and replacing the state in an answer, which is a state or a value with a state. -/
structure Answer (β : Type) where
  get : β → State
  put : β → State → β
  get_put : ∀ b s, get (put b s) = s
  put_get : ∀ b, put b (get b) = b

/-- The answer that is a state. -/
def Answer.state : Answer State := ⟨id, fun _ s => s, fun _ _ => rfl, fun _ => rfl⟩

/-- The answer that is a value with a state. -/
def Answer.value (α : Type) : Answer (α × State) := ⟨Prod.snd, fun b s => (b.1, s), fun _ _ => rfl, fun _ => rfl⟩

/-- What an operation does on any bus. An answer comes with a list of reads and writes that the bus served, and on
another bus the same list leads to the same answer when it is served, and to BusFault when the bus fails it. A fault is
one of `E`, or that of an access the bus fails after it has served a list, with what serving it left, and on another bus that fails one of these
accesses after it has served those before it the fault is that one's. -/
structure Runs {β : Type} (E : Fault → Prop) (l : Answer β) (m : State → Except Fault β) (s : State) : Prop where
  ok : ∀ b, m s = .ok b → ∃ tr, s.serve tr = .ok (s.onBusOf (l.get b)) ∧
    ∀ bus : State,
      (∀ u, (s.onBusOf bus).serve tr = .ok u → m (s.onBusOf bus) = .ok (l.put b ((l.get b).onBusOf u))) ∧
      (∀ f, (s.onBusOf bus).serve tr = .error (some f) → ∃ left, m (s.onBusOf bus) = .error (.busFault f left))
  error : ∀ f, m s = .error f → E f ∨ ∃ b tr acc u, f = .busFault b (u.busLeft acc) ∧ s.serve tr = .ok u ∧
    u.serveOne acc = .error (some b) ∧
    ∀ (bus : State) g, (s.onBusOf bus).serve (tr ++ [acc]) = .error (some g) →
      ∃ left, m (s.onBusOf bus) = .error (.busFault g left)

variable {E : Fault → Prop}

/-- Two runs in a row are a run. -/
theorem Runs.bind {β γ : Type} {l : Answer β} {l' : Answer γ} {m : State → Except Fault β} {f : β → Except Fault γ}
    {s : State} (h : Runs E l m s) (hf : ∀ b t, Runs E l' (fun t => f (l.put b t)) t) :
    Runs E l' (fun s => m s >>= f) s := by
  constructor
  · intro c hc
    obtain ⟨b, hb, hc⟩ := bind_ok.1 hc
    obtain ⟨tr, h1, h2⟩ := h.ok b hb
    obtain ⟨tr', g1, g2⟩ := (hf b (l.get b)).ok c (by rw [l.put_get]; exact hc)
    refine ⟨tr ++ tr', ?_, fun bus => ⟨?_, ?_⟩⟩
    · rw [serve_append, h1, ok_bind, serve_onBusOf, g1]
      rfl
    · intro w hw
      rw [serve_append] at hw
      obtain ⟨u, hu, hw⟩ := bind_ok.1 hw
      rw [(h2 bus).1 u hu, ok_bind]
      have e := (g2 u).1 ((l.get b).onBusOf w) (by rw [serve_onBusOf, hw]; rfl)
      exact e
    · intro e he
      rw [serve_append] at he
      rcases bind_error.1 he with he | ⟨u, hu, he⟩
      · obtain ⟨left, h3⟩ := (h2 bus).2 e he
        exact ⟨left, by rw [h3]; rfl⟩
      · rw [(h2 bus).1 u hu, ok_bind]
        exact (g2 u).2 e (by rw [serve_onBusOf, he]; rfl)
  · intro e he
    rcases bind_error.1 he with he | ⟨b, hb, he⟩
    · refine (h.error e he).imp id ?_
      rintro ⟨x, tr, acc, u, rfl, h1, h2, h3⟩
      refine ⟨x, tr, acc, u, rfl, h1, h2, fun bus g hg => ?_⟩
      obtain ⟨left, h4⟩ := h3 bus g hg
      exact ⟨left, by rw [h4]; rfl⟩
    · obtain ⟨tr, h1, h2⟩ := h.ok b hb
      refine ((hf b (l.get b)).error e (by rw [l.put_get]; exact he)).imp id ?_
      rintro ⟨x, tr', acc, u, rfl, g1, g2, g3⟩
      refine ⟨x, tr ++ tr', acc, s.onBusOf u, rfl, by rw [serve_append, h1, ok_bind, serve_onBusOf, g1]; rfl,
        by rw [serveOne_onBusOf, g2]; rfl, fun bus g hg => ?_⟩
      rw [List.append_assoc, serve_append] at hg
      rcases bind_error.1 hg with hg | ⟨w, hw, hg⟩
      · obtain ⟨left, h4⟩ := (h2 bus).2 g hg
        exact ⟨left, by rw [h4]; rfl⟩
      · rw [(h2 bus).1 w hw, ok_bind]
        exact g3 w g (by rw [serve_onBusOf, hg]; rfl)

theorem Runs.andThen {m : State → Except Fault State} {f : State → Except Fault State} {s : State}
    (h : Runs E .state m s) (hf : ∀ t, Runs E .state f t) : Runs E .state (fun s => m s >>= f) s :=
  Runs.bind h (fun _ t => hf t)

theorem Runs.andThenValue {α : Type} {m : State → Except Fault State} {f : State → Except Fault (α × State)} {s : State}
    (h : Runs E .state m s) (hf : ∀ t, Runs E (.value α) f t) : Runs E (.value α) (fun s => m s >>= f) s :=
  Runs.bind h (fun _ t => hf t)

theorem Runs.useValue {α : Type} {m : State → Except Fault (α × State)} {f : α × State → Except Fault State} {s : State}
    (h : Runs E (.value α) m s) (hf : ∀ a t, Runs E .state (fun t => f (a, t)) t) : Runs E .state (fun s => m s >>= f) s :=
  Runs.bind h (fun b t => hf b.1 t)

theorem Runs.useValueValue {α β : Type} {m : State → Except Fault (α × State)} {f : α × State → Except Fault (β × State)}
    {s : State} (h : Runs E (.value α) m s) (hf : ∀ a t, Runs E (.value β) (fun t => f (a, t)) t) :
    Runs E (.value β) (fun s => m s >>= f) s :=
  Runs.bind h (fun b t => hf b.1 t)

/-- An operation may be replaced by one that agrees with it on every bus. -/
theorem Runs.congr {β : Type} {l : Answer β} {m m' : State → Except Fault β} {s : State}
    (h : ∀ bus, m (s.onBusOf bus) = m' (s.onBusOf bus)) (hm : Runs E l m s) : Runs E l m' s := by
  refine ⟨fun b hb => ?_, fun f hf => (hm.error f ((h s).trans hf)).imp id ?_⟩
  · obtain ⟨tr, h1, h2⟩ := hm.ok b ((h s).trans hb)
    exact ⟨tr, h1, fun bus => ⟨fun u hu => (h bus).symm.trans ((h2 bus).1 u hu),
      fun f hf => ((h2 bus).2 f hf).imp fun _ e => (h bus).symm.trans e⟩⟩
  · rintro ⟨x, tr, acc, u, e, h1, h2, h3⟩
    exact ⟨x, tr, acc, u, e, h1, h2, fun bus g hg => (h3 bus g hg).imp fun _ e => (h bus).symm.trans e⟩

/-- A change of state that does not touch the bus, with a value in which the bus plays no part. -/
theorem Runs.pureValue {α : Type} {g : State → State} {v : State → α} {s : State}
    (h : ∀ s bus : State, g (s.onBusOf bus) = (g s).onBusOf bus := by intros; rfl)
    (hv : ∀ s bus : State, v (s.onBusOf bus) = v s := by intros; rfl) :
    Runs E (.value α) (fun s => .ok (v s, g s)) s := by
  refine ⟨fun b hb => ⟨[], ?_, fun bus => ⟨fun u hu => ?_, fun f hf => by simp at hf⟩⟩, fun f hf => by simp at hf⟩
  · obtain rfl := Except.ok.inj hb
    have e : g s = (g s).onBusOf s := h s s
    show Except.ok s = Except.ok (s.onBusOf (g s))
    rw [e]
    rfl
  · obtain rfl := Except.ok.inj hb
    obtain rfl := Except.ok.inj hu
    show Except.ok (v (s.onBusOf bus), g (s.onBusOf bus)) = Except.ok (v s, (g s).onBusOf (s.onBusOf bus))
    rw [h, hv]
    rfl

/-- A change of state that does not touch the bus. -/
theorem Runs.pure {g : State → State} {s : State}
    (h : ∀ s bus : State, g (s.onBusOf bus) = (g s).onBusOf bus := by intros; rfl) :
    Runs E .state (fun s => .ok (g s)) s := by
  refine ⟨fun b hb => ⟨[], ?_, fun bus => ⟨fun u hu => ?_, fun f hf => by simp at hf⟩⟩, fun f hf => by simp at hf⟩
  · obtain rfl := Except.ok.inj hb
    have e : g s = (g s).onBusOf s := h s s
    show Except.ok s = Except.ok (s.onBusOf (g s))
    rw [e]
    rfl
  · obtain rfl := Except.ok.inj hb
    obtain rfl := Except.ok.inj hu
    exact congrArg Except.ok (h s bus)

/-- The run of a state on which memory keeps its canonical form. -/
theorem Runs.wf {β : Type} {l : Answer β} {m : State → Except Fault β} {s : State} {b : β} (h : Runs E l m s)
    (hb : m s = .ok b) (hw : s.wf = true) : (l.get b).wf = true := by
  obtain ⟨tr, h1, -⟩ := h.ok b hb
  exact (serve_ok h1).2 hw

/-- What a BusFault leaves of the bus keeps the canonical form of memory. -/
theorem Runs.wf_busFault {β : Type} {l : Answer β} {m : State → Except Fault β} {s : State} {b : BusFailure}
    {left : BusLeft} (h : Runs E l m s) (hE : ¬E (.busFault b left)) (hm : m s = .error (.busFault b left))
    (hw : s.wf = true) : left.mem.wf = true := by
  obtain ⟨b', tr, acc, u, e, h1, -, -⟩ := (h.error _ hm).resolve_left hE
  obtain ⟨-, rfl⟩ := Fault.busFault.inj e
  exact (serve_ok h1).2 hw

/-! ### The shared operations -/

theorem memRead_runs (a : Word) (s : State) : Runs E (.value Byte) (memRead a) s := by
  refine ⟨?_, fun f hf => ?_⟩
  · rintro ⟨v, t⟩ hb
    obtain ⟨h1, rfl⟩ := memRead_ok_iff.1 hb
    refine ⟨[⟨.read, a, v⟩], by simp [State.serve, State.serveOne, h1]; rfl, fun bus => ⟨fun u hu => ?_, fun f hf => ?_⟩⟩
    · simp only [State.serve, State.serveOne, State.onBusOf_busRead] at hu
      cases hr : bus.busRead a with
      | error f => simp [hr] at hu
      | ok w =>
        by_cases hv : w = v
        · subst hv
          simp [hr] at hu
          subst hu
          exact memRead_ok_iff.2 ⟨hr, rfl⟩
        · simp [hr, hv] at hu
    · simp only [State.serve, State.serveOne, State.onBusOf_busRead] at hf
      cases hr : bus.busRead a with
      | error g =>
        simp [hr] at hf
        subst hf
        exact ⟨_, memRead_error_iff.2 ⟨g, hr, rfl⟩⟩
      | ok w =>
        by_cases hv : w = v <;> simp [hr, hv] at hf
  · obtain ⟨b, hb, rfl⟩ := memRead_error_iff.1 hf
    refine .inr ⟨b, [], ⟨.read, a, 0⟩, s, rfl, rfl, by simp [State.serveOne, hb], fun bus g hg => ?_⟩
    exact ⟨_, memRead_error_iff.2 ⟨g, serveOne_read_error.1 (serve_one_error hg), rfl⟩⟩

theorem memWrite_runs (a : Word) (v : Byte) (s : State) : Runs E .state (memWrite a v) s := by
  refine ⟨fun t hb => ?_, fun f hf => ?_⟩
  · obtain ⟨m, h1, rfl⟩ := memWrite_ok_iff.1 hb
    refine ⟨[⟨.write, a, v⟩], by simp [State.serve, State.serveOne, h1]; rfl, fun bus => ⟨fun u hu => ?_, fun f hf => ?_⟩⟩
    · simp only [State.serve, State.serveOne, State.onBusOf_busWrite] at hu
      cases hr : bus.busWrite a v with
      | error f => simp [hr] at hu
      | ok n =>
        simp [hr] at hu
        subst hu
        exact memWrite_ok_iff.2 ⟨n, hr, rfl⟩
    · simp only [State.serve, State.serveOne, State.onBusOf_busWrite] at hf
      cases hr : bus.busWrite a v with
      | error g =>
        simp [hr] at hf
        subst hf
        exact ⟨_, memWrite_error_iff.2 ⟨g, hr, rfl⟩⟩
      | ok n => simp [hr] at hf
  · obtain ⟨b, hb, rfl⟩ := memWrite_error_iff.1 hf
    refine .inr ⟨b, [], ⟨.write, a, v⟩, s, rfl, rfl, serveOne_write_error.2 hb, fun bus g hg => ?_⟩
    exact ⟨_, memWrite_error_iff.2 ⟨g, serveOne_write_error.1 (serve_one_error hg), rfl⟩⟩

theorem read16_runs (a : Word) (s : State) : Runs E (.value Word) (read16 a) s :=
  (memRead_runs _ _).useValueValue fun _ _ => (memRead_runs _ _).useValueValue fun _ _ => Runs.pureValue (g := id)

theorem read16ZP_runs (z : Byte) (s : State) : Runs E (.value Word) (read16ZP z) s :=
  (memRead_runs _ _).useValueValue fun _ _ => (memRead_runs _ _).useValueValue fun _ _ => Runs.pureValue (g := id)

theorem read16Bug_runs (p : Word) (s : State) : Runs E (.value Word) (read16Bug p) s :=
  (memRead_runs _ _).useValueValue fun _ _ => (memRead_runs _ _).useValueValue fun _ _ => Runs.pureValue (g := id)

theorem resolveAddress_runs {o : Operand} (ho : addressable o.mode = true) (s : State) :
    Runs E (.value Resolved) (resolveAddress o) s := by
  cases o with
  | zeroPage z => exact Runs.pureValue (g := id)
  | zeroPageIndexedX z => exact Runs.pureValue (g := id) (v := fun s => (⟨zext (z + s.x), false⟩ : Resolved))
  | zeroPageIndexedY z => exact Runs.pureValue (g := id) (v := fun s => (⟨zext (z + s.y), false⟩ : Resolved))
  | absolute w => exact Runs.pureValue (g := id)
  | absoluteIndexedX w => exact Runs.pureValue (g := id) (v := fun s => indexed w s.x)
  | absoluteIndexedY w => exact Runs.pureValue (g := id) (v := fun s => indexed w s.y)
  | indirectX z =>
    have h : Runs E (.value Word) (fun t => read16ZP (z + t.x) t) s :=
      (read16ZP_runs (z + s.x) s).congr (fun _ => rfl)
    exact h.useValueValue (f := fun b => .ok ((⟨b.1, false⟩ : Resolved), b.2)) fun _ _ => Runs.pureValue (g := id)
  | indirectY z => exact (read16ZP_runs _ _).useValueValue fun w _ => Runs.pureValue (g := id) (v := fun s => indexed w s.y)
  | absoluteIndirect w => exact (read16Bug_runs _ _).useValueValue fun _ _ => Runs.pureValue (g := id)
  | _ => simp [addressable, Operand.mode] at ho

theorem resolveOperand_runs {o : Operand} (ho : readable o.mode = true) (s : State) :
    Runs E (.value OperandValue) (resolveOperand o) s := by
  by_cases hi : o.mode = .immediate
  · cases o <;> simp [Operand.mode] at hi
    exact Runs.pureValue (g := id)
  · have ha : addressable o.mode = true := by simpa [readable, hi] using ho
    have e : resolveOperand o = _ := funext (resolveOperand_eq hi)
    rw [e]
    exact (resolveAddress_runs ha _).useValueValue fun _ _ =>
      (memRead_runs _ _).useValueValue fun _ _ => Runs.pureValue (g := id)

theorem push_runs (v : Byte) (s : State) : Runs E .state (push v) s := by
  have h1 : ∀ t, Runs E .state (fun s1 => memWrite (stackAddress s1.sp) v s1 >>= fun s2 => .ok (s2.setSP (s2.sp + 1))) t :=
    fun t => ((memWrite_runs (stackAddress t.sp) v t).andThen fun _ => Runs.pure (g := fun s => s.setSP (s.sp + 1))).congr
      (fun _ => rfl)
  have h2 : Runs E .state (fun s => .ok (if s.sp = 0xFF#8 then s.addDiag .stackOverflow else s)) s :=
    Runs.pure (g := fun s => if s.sp = 0xFF#8 then s.addDiag .stackOverflow else s)
      (by intro s u; by_cases h : s.sp = 0xFF#8 <;> simp [State.onBusOf, h, State.addDiag])
  exact h2.andThen h1

theorem pop_runs (s : State) : Runs E (.value Byte) pop s := by
  have h1 : ∀ t, Runs E (.value Byte) (fun s1 => memRead (stackAddress s1.sp) s1) t :=
    fun t => (memRead_runs (stackAddress t.sp) t).congr (fun _ => rfl)
  have h2 : Runs E .state (fun s => .ok ((if s.sp = 0x00#8 then s.addDiag .stackUnderflow else s).setSP (s.sp - 1))) s :=
    Runs.pure (g := fun s => (if s.sp = 0x00#8 then s.addDiag .stackUnderflow else s).setSP (s.sp - 1))
      (by intro s u; by_cases h : s.sp = 0x00#8 <;> simp [State.onBusOf, h, State.addDiag, State.setSP])
  refine (h2.andThenValue h1).congr fun f => ?_
  simp only [pop, ok_bind]
  by_cases h : (s.onBusOf f).sp = 0x00#8 <;> simp [h]

theorem pushWord_runs (w : Word) (s : State) : Runs E .state (pushWord w) s :=
  (push_runs _ _).andThen fun _ => push_runs _ _

theorem popWord_runs (s : State) : Runs E (.value Word) popWord s :=
  (pop_runs _).useValueValue fun _ _ => (pop_runs _).useValueValue fun _ _ => Runs.pureValue (g := id)

theorem takeTrap_runs (vector ret : Word) (s : State) : Runs E .state (takeTrap vector ret) s := by
  refine (pushWord_runs _ _).andThen fun t => ?_
  have h1 : ∀ u, Runs E .state (fun s2 => read16 vector (s2.setFlag .i true) >>= fun x => .ok (x.2.setPC x.1)) u := fun u =>
    Runs.andThen (m := fun s => .ok (s.setFlag .i true)) (Runs.pure (g := fun s => s.setFlag .i true)) fun _ =>
      (read16_runs vector _).useValue (f := fun x => .ok (x.2.setPC x.1)) fun w _ => Runs.pure (g := fun s => s.setPC w)
  exact ((push_runs (pushedP t.p) t).andThen h1).congr (fun _ => rfl)

theorem returnFromTrap_runs (s : State) : Runs E .state returnFromTrap s := by
  refine (pop_runs _).useValue fun p t => ?_
  exact Runs.andThen (m := fun s => .ok (s.setP p)) (Runs.pure (g := fun s => s.setP p)) fun _ =>
    (popWord_runs _).useValue (f := fun x => .ok (x.2.setPC x.1)) fun w _ => Runs.pure (g := fun s => s.setPC w)

end Sys2Proof.Machine
end

