-- ==== Sys2Proof/Laws/Fetch.lean ====
section
/-! SUPPORT. Fetching an instruction, on any bus: when it answers and what it then leaves, when it fails, and that the
opcode map, the encoder and the lengths agree byte by byte. -/

namespace Sys2Proof.Machine

/-- What the opcode map gives for a byte: nothing exactly for the 105 unassigned bytes, and otherwise
instructions with that opcode byte, its operand bytes and its length. -/
def OpcodeEntry (op : Byte) : Option OpForm → Prop
  | none => op ∈ unassignedBytes
  | some (.noOperand i) => op ∉ unassignedBytes ∧ encode i = [op] ∧ i.length = 1
  | some (.byteOperand f) => op ∉ unassignedBytes ∧ ∀ b, encode (f b) = [op, b] ∧ (f b).length = 2
  | some (.wordOperand f) => op ∉ unassignedBytes ∧ ∀ w, encode (f w) = [op, loByte w, hiByte w] ∧ (f w).length = 3

theorem opcodeMap_entry (op : Byte) : OpcodeEntry op (opcodeMap op) := by
  have h : ∀ n, n < 256 → OpcodeEntry (BitVec.ofNat 8 n) (opcodeMap (BitVec.ofNat 8 n)) := by
    intro n hn
    interval_cases n <;>
      first
      | (show _ ∈ _; decide)
      | exact ⟨by decide, rfl, rfl⟩
      | exact ⟨by decide, fun _ => ⟨rfl, rfl⟩⟩
  simpa using h op.toNat op.isLt

theorem Instr.length_le (i : Instr) : i.length ≤ maxInstrLength := by
  have h : ∀ m : Mode, 1 + m.operandBytes ≤ maxInstrLength := by
    intro m
    cases m <;> decide
  exact h _

/-- The opcode byte of an instruction selects it, given its operand bytes (30_encoding.md R111, R102). -/
theorem opcodeMap_opcode (i : Instr) :
    (opcodeMap i.opcode = some (.noOperand i) ∧ encode i = [i.opcode]) ∨
    (∃ f b, opcodeMap i.opcode = some (.byteOperand f) ∧ f b = i ∧ encode i = [i.opcode, b]) ∨
    (∃ f w, opcodeMap i.opcode = some (.wordOperand f) ∧ f w = i ∧ encode i = [i.opcode, loByte w, hiByte w]) := by
  cases i <;> dsimp only [Instr.opcode] <;> first
    | exact .inl ⟨rfl, rfl⟩
    | exact .inr (.inl ⟨_, _, rfl, rfl, rfl⟩)
    | exact .inr (.inr ⟨_, _, rfl, rfl, rfl⟩)

/-- An instruction is as long as its encoding. -/
theorem length_encode (i : Instr) : (encode i).length = i.length := by
  cases i <;> rfl

/-! ### Fetch -/

/-- Fetch: exactly when it answers, and the state it leaves (20_memory.md R63). -/
theorem fetch_ok_iff {s t : State} {b : Byte} : fetch s = .ok (b, t) ↔
    s.busRead s.pc = .ok b ∧ t = { s with pc := s.pc + 1, accesses := s.accesses ++ [⟨.read, s.pc, b⟩] } := by
  simp only [fetch, bind_ok, Prod.exists, memRead_ok_iff, pure_eq_ok, Except.ok.injEq, Prod.mk.injEq]
  constructor
  · rintro ⟨_, _, ⟨h, rfl⟩, rfl, rfl⟩
    exact ⟨h, rfl⟩
  · rintro ⟨h, rfl⟩
    exact ⟨b, _, ⟨h, rfl⟩, rfl, rfl⟩

/-- Fetch fails exactly when the bus fails the read. -/
theorem fetch_error_iff {s : State} {f : Fault} :
    fetch s = .error f ↔ ∃ b, s.busRead s.pc = .error b ∧ f = .busFault b (s.busLeft ⟨.read, s.pc, 0x00⟩) := by
  simp [fetch, bind_error, memRead_error_iff]

theorem fetch_runs {E : Fault → Prop} (s : State) : Runs E (.value Byte) fetch s :=
  Runs.congr (m := fun t => memRead s.pc t >>= fun x => .ok (x.1, x.2.setPC (s.pc + 1))) (fun _ => by
    simp only [fetch]
    cases h : memRead s.pc _ with
    | error f => simp [State.onBusOf] at h ⊢; rw [h]; rfl
    | ok x =>
      have e : x.2.pc = s.pc := (memRead_same (t := x.2) (v := x.1) h).pc
      simp [State.onBusOf] at h ⊢
      rw [h]
      simp [State.incrementPC, e]) <|
  (memRead_runs _ _).useValueValue (f := fun x => .ok (x.1, x.2.setPC (s.pc + 1))) fun _ _ =>
    Runs.pureValue (g := fun t => t.setPC (s.pc + 1))

/-! ### Fetching an instruction -/

/-- The faults of fetching an instruction that no bus access gives: DecodeFault (30_encoding.md R112). -/
def IsDecodeFault (f : Fault) : Prop := ∃ op a left, f = .decodeFault op a left

theorem fetchInstr_runs (s : State) : Runs IsDecodeFault (.value Instr) fetchInstr s := by
  refine Runs.congr (m := fun t => fetch t >>= fun x => match opcodeMap x.1 with
    | none => .error (.decodeFault x.1 s.pc (x.2.setPC s.pc))
    | some form => fetchOperand form x.2) (fun _ => rfl) ((fetch_runs s).useValueValue fun op t => ?_)
  dsimp only
  cases opcodeMap op with
  | none => exact ⟨fun b hb => by simp at hb, fun f hf => .inl ⟨op, s.pc, _, (Except.error.inj hf).symm⟩⟩
  | some form =>
    cases form with
    | noOperand i => exact Runs.pureValue (g := id)
    | byteOperand g => exact (fetch_runs _).useValueValue fun _ _ => Runs.pureValue (g := id)
    | wordOperand g =>
      exact (fetch_runs _).useValueValue fun _ _ => (fetch_runs _).useValueValue fun _ _ => Runs.pureValue (g := id)

/-- DecodeFault names the byte read at PC, which has no instruction, and leaves the state but for that read
(30_encoding.md R112; 60_exceptions.md R501). -/
theorem fetchInstr_decodeFault {s left : State} {op : Byte} {a : Word}
    (h : fetchInstr s = .error (.decodeFault op a left)) :
    s.busRead s.pc = .ok op ∧ a = s.pc ∧ left = s.logAccess ⟨.read, s.pc, op⟩ ∧ op ∈ unassignedBytes := by
  rcases bind_error.1 h with h | ⟨⟨b, s1⟩, h1, h⟩
  · obtain ⟨b, -, hb⟩ := fetch_error_iff.1 h
    simp at hb
  · obtain ⟨hr, hs1⟩ := fetch_ok_iff.1 h1
    have he := opcodeMap_entry b
    simp only at h
    split at h
    · rename_i hn
      rw [hn] at he
      simp only [Except.error.injEq, Fault.decodeFault.injEq] at h
      obtain ⟨rfl, rfl, rfl⟩ := h
      exact ⟨hr, rfl, by rw [hs1]; rfl, he⟩
    · rename_i form _
      cases form with
      | noOperand i => simp [fetchOperand] at h
      | byteOperand g =>
        rcases bind_error.1 h with h | ⟨s1, -, h⟩
        · obtain ⟨b, -, hb⟩ := fetch_error_iff.1 h
          simp at hb
        · simp at h
      | wordOperand g =>
        rcases bind_error.1 h with h | ⟨s1, -, h⟩
        · obtain ⟨b, -, hb⟩ := fetch_error_iff.1 h
          simp at hb
        · rcases bind_error.1 h with h | ⟨s2, -, h⟩
          · obtain ⟨b, -, hb⟩ := fetch_error_iff.1 h
            simp at hb
          · simp at h

/-- Bytes served one after the other are fetched one after the other. -/
theorem serve_fetchTrace_cons {s u : State} {a : Word} {b : Byte} {bs : List Byte} :
    s.serve (fetchTrace a (b :: bs)) = .ok u ↔
      s.busRead a = .ok b ∧ (s.logAccess ⟨.read, a, b⟩).serve (fetchTrace (a + 1) bs) = .ok u := by
  simp only [fetchTrace, State.serve, State.serveOne]
  cases h : s.busRead a with
  | error f => simp
  | ok v =>
    by_cases hv : v = b
    · simp [hv]
    · simp [hv]

/-- Fetching answers exactly with the instruction whose bytes the bus serves from PC on, and leaves PC past them. -/
theorem fetchInstr_ok_iff {s t : State} {i : Instr} : fetchInstr s = .ok (i, t) ↔
    ∃ u, s.serve (fetchTrace s.pc (encode i)) = .ok u ∧ t = { u with pc := s.pc + BitVec.ofNat 16 i.length } := by
  constructor
  · intro h
    obtain ⟨⟨op, s1⟩, h1, h⟩ := bind_ok.1 h
    obtain ⟨r1, rfl⟩ := fetch_ok_iff.1 h1
    have hm := opcodeMap_entry op
    simp only at h
    split at h
    · simp at h
    · rename_i form hop
      rw [hop] at hm
      cases form with
      | noOperand j =>
        simp only [fetchOperand, Except.ok.injEq, Prod.mk.injEq] at h
        obtain ⟨rfl, rfl⟩ := h
        rw [hm.2.1, hm.2.2]
        exact ⟨_, serve_fetchTrace_cons.2 ⟨r1, rfl⟩, rfl⟩
      | byteOperand f =>
        obtain ⟨⟨b, s2⟩, h2, h⟩ := bind_ok.1 h
        obtain ⟨r2, rfl⟩ := fetch_ok_iff.1 h2
        simp only [pure_eq_ok, Except.ok.injEq, Prod.mk.injEq] at h
        obtain ⟨rfl, rfl⟩ := h
        rw [(hm.2 _).1, (hm.2 _).2]
        exact ⟨_, serve_fetchTrace_cons.2 ⟨r1, serve_fetchTrace_cons.2 ⟨r2, rfl⟩⟩, by simp [BitVec.add_assoc, State.logAccess]⟩
      | wordOperand f =>
        obtain ⟨⟨b, s2⟩, h2, h⟩ := bind_ok.1 h
        obtain ⟨⟨c, s3⟩, h3, h⟩ := bind_ok.1 h
        obtain ⟨r2, rfl⟩ := fetch_ok_iff.1 h2
        obtain ⟨r3, rfl⟩ := fetch_ok_iff.1 h3
        simp only [pure_eq_ok, Except.ok.injEq, Prod.mk.injEq] at h
        obtain ⟨rfl, rfl⟩ := h
        rw [(hm.2 _).1, (hm.2 _).2, loByte_joinBytes, hiByte_joinBytes]
        exact ⟨_, serve_fetchTrace_cons.2 ⟨r1, serve_fetchTrace_cons.2 ⟨r2, serve_fetchTrace_cons.2 ⟨r3, rfl⟩⟩⟩,
          by simp [BitVec.add_assoc, State.logAccess]⟩
  · rintro ⟨u, hu, rfl⟩
    have hl := length_encode i
    rcases opcodeMap_opcode i with ⟨h1, h2⟩ | ⟨f, b, h1, h2, h3⟩ | ⟨f, w, h1, h2, h3⟩
    · rw [h2] at hu hl
      obtain ⟨r1, hu⟩ := serve_fetchTrace_cons.1 hu
      obtain rfl := Except.ok.inj hu
      rw [fetchInstr, fetch_ok_iff.2 ⟨r1, rfl⟩, ok_bind]
      simp only [h1, fetchOperand, ← hl]
      rfl
    · rw [h3] at hu hl
      obtain ⟨r1, hu⟩ := serve_fetchTrace_cons.1 hu
      obtain ⟨r2, hu⟩ := serve_fetchTrace_cons.1 hu
      obtain rfl := Except.ok.inj hu
      rw [fetchInstr, fetch_ok_iff.2 ⟨r1, rfl⟩, ok_bind]
      simp only [h1, fetchOperand, ← hl]
      rw [fetch_ok_iff.2 ⟨r2, rfl⟩, ok_bind]
      simp [h2, State.logAccess, BitVec.add_assoc]
    · rw [h3] at hu hl
      obtain ⟨r1, hu⟩ := serve_fetchTrace_cons.1 hu
      obtain ⟨r2, hu⟩ := serve_fetchTrace_cons.1 hu
      obtain ⟨r3, hu⟩ := serve_fetchTrace_cons.1 hu
      obtain rfl := Except.ok.inj hu
      rw [fetchInstr, fetch_ok_iff.2 ⟨r1, rfl⟩, ok_bind]
      simp only [h1, fetchOperand, ← hl]
      rw [fetch_ok_iff.2 ⟨r2, rfl⟩, ok_bind]
      simp only
      rw [fetch_ok_iff.2 ⟨r3, rfl⟩, ok_bind]
      simp [h2, State.logAccess, BitVec.add_assoc]

/-- A fetch that the bus fails after it served the bytes before it ends the fetching with that report (R503, R512). -/
theorem fetchInstr_of_failure {s u : State} {i : Instr} {bs rest : List Byte} {b : Byte} {f : BusFailure}
    (he : encode i = bs ++ b :: rest) (hs : s.serve (fetchTrace s.pc bs) = .ok u)
    (hf : u.busRead (s.pc + BitVec.ofNat 16 bs.length) = .error f) :
    fetchInstr s = .error (.busFault f (u.busLeft ⟨.read, s.pc + BitVec.ofNat 16 bs.length, 0x00⟩)) := by
  cases bs with
  | nil =>
    obtain rfl := Except.ok.inj hs
    rw [fetchInstr, fetch_error_iff.2 ⟨f, by simpa using hf, rfl⟩]
    simp
  | cons c bs =>
    obtain ⟨r1, hs⟩ := serve_fetchTrace_cons.1 hs
    rw [fetchInstr]
    rcases opcodeMap_opcode i with ⟨h1, h2⟩ | ⟨g, x, h1, h2, h3⟩ | ⟨g, w, h1, h2, h3⟩
    · rw [h2] at he
      simp at he
    · rw [h3] at he
      simp only [List.cons_append, List.cons.injEq] at he
      obtain ⟨rfl, he⟩ := he
      rw [fetch_ok_iff.2 ⟨r1, rfl⟩, ok_bind]
      simp only [h1, fetchOperand]
      cases bs with
      | nil =>
        obtain rfl := Except.ok.inj hs
        rw [fetch_error_iff.2 ⟨f, by simp at hf ⊢; exact hf, rfl⟩]
        rfl
      | cons d bs => simp at he
    · rw [h3] at he
      simp only [List.cons_append, List.cons.injEq] at he
      obtain ⟨rfl, he⟩ := he
      rw [fetch_ok_iff.2 ⟨r1, rfl⟩, ok_bind]
      simp only [h1, fetchOperand]
      cases bs with
      | nil =>
        obtain rfl := Except.ok.inj hs
        rw [fetch_error_iff.2 ⟨f, by simp at hf ⊢; exact hf, rfl⟩]
        rfl
      | cons d bs =>
        obtain ⟨r2, hs⟩ := serve_fetchTrace_cons.1 hs
        simp only [List.cons_append, List.cons.injEq] at he
        obtain ⟨rfl, he⟩ := he
        rw [fetch_ok_iff.2 ⟨r2, rfl⟩, ok_bind]
        cases bs with
        | nil =>
          obtain rfl := Except.ok.inj hs
          simp only
          rw [fetch_error_iff.2 ⟨f, by simp [BitVec.add_assoc, State.logAccess] at hf ⊢; exact hf, rfl⟩]
          simp [State.busLeft, State.logAccess, BitVec.add_assoc]
        | cons e bs => simp at he

/-! ### Fetching from RAM -/

/-- Bytes that decode to an instruction begin with its encoding; here the bytes at an address. -/
theorem bytesAt_of_decode {s : State} {a : Word} {i : Instr} {rest : List Byte}
    (h : decode (s.bytesAt a maxInstrLength) = .ok (i, rest)) : encode i = s.bytesAt a i.length := by
  simp only [State.bytesAt, maxInstrLength, decode] at h
  have hm := opcodeMap_entry (s.readByte a)
  cases hop : opcodeMap (s.readByte a) with
  | none => rw [hop] at h; simp at h
  | some form =>
    rw [hop] at h hm
    cases form with
    | noOperand j =>
      simp only [Except.ok.injEq, Prod.mk.injEq] at h
      obtain ⟨rfl, -⟩ := h
      rw [hm.2.1, hm.2.2]
      rfl
    | byteOperand f =>
      simp only [Except.ok.injEq, Prod.mk.injEq] at h
      obtain ⟨rfl, -⟩ := h
      rw [(hm.2 _).1, (hm.2 _).2]
      rfl
    | wordOperand f =>
      simp only [Except.ok.injEq, Prod.mk.injEq] at h
      obtain ⟨rfl, -⟩ := h
      rw [(hm.2 _).1, (hm.2 _).2, loByte_joinBytes, hiByte_joinBytes]
      rfl

/-- Where RAM stands behind every address, the bytes of memory are served but for accesses that are always failed. -/
theorem serve_bytesAt {s : State} (h : s.windows = []) (a : Word) (n : Nat)
    (hb : ∀ acc ∈ fetchTrace a (s.bytesAt a n), s.busFailure .read acc.address = none) :
    s.serve (fetchTrace a (s.bytesAt a n)) = .ok { s with accesses := s.accesses ++ fetchTrace a (s.bytesAt a n) } := by
  induction n generalizing s a with
  | zero => simp [State.bytesAt, fetchTrace]
  | succ n ih =>
    have e : ∀ (l : BusAccess) (b : Word) (k : Nat), (s.logAccess l).bytesAt b k = s.bytesAt b k := by
      intro l b k
      induction k generalizing b with
      | zero => rfl
      | succ k ihk => simp only [State.bytesAt, ihk]; rfl
    refine serve_fetchTrace_cons.2 ⟨busRead_of_noWindows h (hb ⟨.read, a, _⟩ List.mem_cons_self), ?_⟩
    have := ih (s := s.logAccess ⟨.read, a, s.readByte a⟩) h (a + 1) (by
      rw [e]
      exact fun acc hacc => hb acc (List.mem_cons_of_mem _ hacc))
    rw [e] at this
    rw [this]
    simp [State.logAccess, State.bytesAt, fetchTrace]

end Sys2Proof.Machine
end

