-- ==== Sys2Proof/Laws/Forms.lean ====
section
/-! SUPPORT. The forms of a mnemonic by computation: `HasForms` follows from one check over the 256 opcode bytes. -/

namespace Sys2Proof.Machine

/-- The instruction an opcode byte selects, its operand bytes 0. -/
def formInstr (op : Byte) : Option Instr :=
  match opcodeMap op with
  | some (.noOperand i) => some i
  | some (.byteOperand f) => some (f 0)
  | some (.wordOperand f) => some (f 0)
  | none => none

/-- The opcode byte of an instruction selects an instruction of the same mnemonic, opcode and mode. -/
theorem formInstr_opcode (i : Instr) :
    ∃ j, formInstr i.opcode = some j ∧ j.mnemonic = i.mnemonic ∧ j.opcode = i.opcode ∧ j.mode = i.mode := by
  cases i <;> dsimp only [Instr.opcode] <;> exact ⟨_, rfl, rfl, rfl, rfl⟩

/-- The instructions of all opcode bytes, each with operand bytes 0. -/
def formInstrs : List Instr := (List.range 256).filterMap (fun n => formInstr (BitVec.ofNat 8 n))

theorem mem_formInstrs {op : Byte} {j : Instr} (h : formInstr op = some j) : j ∈ formInstrs :=
  List.mem_filterMap.2 ⟨op.toNat, List.mem_range.2 op.isLt, by simpa using h⟩

/-- The check: every instruction of the mnemonic has a listed form, and every listed form is an instruction's. -/
def formsCheck (mn : Mnemonic) (forms : List (Byte × Mode)) : Bool :=
  formInstrs.all (fun i => !(decide (i.mnemonic = mn)) || decide ((i.opcode, i.mode) ∈ forms)) &&
  forms.all (fun f => formInstrs.any (fun i => decide (i.mnemonic = mn ∧ i.opcode = f.1 ∧ i.mode = f.2)))

theorem hasForms_of_check {mn : Mnemonic} {forms : List (Byte × Mode)} (h : formsCheck mn forms = true) :
    HasForms mn forms := by
  simp only [formsCheck, Bool.and_eq_true] at h
  intro op mode
  constructor
  · intro hf
    obtain ⟨i, -, hi⟩ := List.any_eq_true.1 (List.all_eq_true.1 h.2 _ hf)
    exact ⟨i, by simpa using hi⟩
  · rintro ⟨i, rfl, rfl, rfl⟩
    obtain ⟨j, hj, e1, e2, e3⟩ := formInstr_opcode i
    simpa [e1, e2, e3] using List.all_eq_true.1 h.1 j (mem_formInstrs hj)

end Sys2Proof.Machine
end

