-- ==== Sys2Proof/Laws/PerInstr.lean ====
section
/-! SUPPORT. Facts about every instruction as syntax, one lemma per constructor: that it is well-formed, and that
its encoding is as long as its mode says (30_encoding.md R101). -/

namespace Sys2Proof.Laws.Legal

/-- The mode of the instruction is legal for its mnemonic (30_encoding.md R111, R114). -/
def Statement (i : Instr) : Prop := i.wellFormed = true

theorem ldaImm (v : Byte) : Statement (.ldaImm v) := rfl
theorem ldaZp (z : Byte) : Statement (.ldaZp z) := rfl
theorem ldaZpX (z : Byte) : Statement (.ldaZpX z) := rfl
theorem ldaAbs (w : Word) : Statement (.ldaAbs w) := rfl
theorem ldaAbsX (w : Word) : Statement (.ldaAbsX w) := rfl
theorem ldaAbsY (w : Word) : Statement (.ldaAbsY w) := rfl
theorem ldaIndX (z : Byte) : Statement (.ldaIndX z) := rfl
theorem ldaIndY (z : Byte) : Statement (.ldaIndY z) := rfl
theorem ldxImm (v : Byte) : Statement (.ldxImm v) := rfl
theorem ldxZp (z : Byte) : Statement (.ldxZp z) := rfl
theorem ldxZpY (z : Byte) : Statement (.ldxZpY z) := rfl
theorem ldxAbs (w : Word) : Statement (.ldxAbs w) := rfl
theorem ldxAbsY (w : Word) : Statement (.ldxAbsY w) := rfl
theorem ldyImm (v : Byte) : Statement (.ldyImm v) := rfl
theorem ldyZp (z : Byte) : Statement (.ldyZp z) := rfl
theorem ldyZpX (z : Byte) : Statement (.ldyZpX z) := rfl
theorem ldyAbs (w : Word) : Statement (.ldyAbs w) := rfl
theorem ldyAbsX (w : Word) : Statement (.ldyAbsX w) := rfl
theorem staZp (z : Byte) : Statement (.staZp z) := rfl
theorem staZpX (z : Byte) : Statement (.staZpX z) := rfl
theorem staAbs (w : Word) : Statement (.staAbs w) := rfl
theorem staAbsX (w : Word) : Statement (.staAbsX w) := rfl
theorem staAbsY (w : Word) : Statement (.staAbsY w) := rfl
theorem staIndX (z : Byte) : Statement (.staIndX z) := rfl
theorem staIndY (z : Byte) : Statement (.staIndY z) := rfl
theorem stxZp (z : Byte) : Statement (.stxZp z) := rfl
theorem stxZpY (z : Byte) : Statement (.stxZpY z) := rfl
theorem stxAbs (w : Word) : Statement (.stxAbs w) := rfl
theorem styZp (z : Byte) : Statement (.styZp z) := rfl
theorem styZpX (z : Byte) : Statement (.styZpX z) := rfl
theorem styAbs (w : Word) : Statement (.styAbs w) := rfl
theorem tax : Statement .tax := rfl
theorem tay : Statement .tay := rfl
theorem tsx : Statement .tsx := rfl
theorem txa : Statement .txa := rfl
theorem txs : Statement .txs := rfl
theorem tya : Statement .tya := rfl
theorem adcImm (v : Byte) : Statement (.adcImm v) := rfl
theorem adcZp (z : Byte) : Statement (.adcZp z) := rfl
theorem adcZpX (z : Byte) : Statement (.adcZpX z) := rfl
theorem adcAbs (w : Word) : Statement (.adcAbs w) := rfl
theorem adcAbsX (w : Word) : Statement (.adcAbsX w) := rfl
theorem adcAbsY (w : Word) : Statement (.adcAbsY w) := rfl
theorem adcIndX (z : Byte) : Statement (.adcIndX z) := rfl
theorem adcIndY (z : Byte) : Statement (.adcIndY z) := rfl
theorem sbcImm (v : Byte) : Statement (.sbcImm v) := rfl
theorem sbcZp (z : Byte) : Statement (.sbcZp z) := rfl
theorem sbcZpX (z : Byte) : Statement (.sbcZpX z) := rfl
theorem sbcAbs (w : Word) : Statement (.sbcAbs w) := rfl
theorem sbcAbsX (w : Word) : Statement (.sbcAbsX w) := rfl
theorem sbcAbsY (w : Word) : Statement (.sbcAbsY w) := rfl
theorem sbcIndX (z : Byte) : Statement (.sbcIndX z) := rfl
theorem sbcIndY (z : Byte) : Statement (.sbcIndY z) := rfl
theorem incZp (z : Byte) : Statement (.incZp z) := rfl
theorem incZpX (z : Byte) : Statement (.incZpX z) := rfl
theorem incAbs (w : Word) : Statement (.incAbs w) := rfl
theorem incAbsX (w : Word) : Statement (.incAbsX w) := rfl
theorem decZp (z : Byte) : Statement (.decZp z) := rfl
theorem decZpX (z : Byte) : Statement (.decZpX z) := rfl
theorem decAbs (w : Word) : Statement (.decAbs w) := rfl
theorem decAbsX (w : Word) : Statement (.decAbsX w) := rfl
theorem inx : Statement .inx := rfl
theorem iny : Statement .iny := rfl
theorem dex : Statement .dex := rfl
theorem dey : Statement .dey := rfl
theorem aslAcc : Statement .aslAcc := rfl
theorem aslZp (z : Byte) : Statement (.aslZp z) := rfl
theorem aslZpX (z : Byte) : Statement (.aslZpX z) := rfl
theorem aslAbs (w : Word) : Statement (.aslAbs w) := rfl
theorem aslAbsX (w : Word) : Statement (.aslAbsX w) := rfl
theorem lsrAcc : Statement .lsrAcc := rfl
theorem lsrZp (z : Byte) : Statement (.lsrZp z) := rfl
theorem lsrZpX (z : Byte) : Statement (.lsrZpX z) := rfl
theorem lsrAbs (w : Word) : Statement (.lsrAbs w) := rfl
theorem lsrAbsX (w : Word) : Statement (.lsrAbsX w) := rfl
theorem rolAcc : Statement .rolAcc := rfl
theorem rolZp (z : Byte) : Statement (.rolZp z) := rfl
theorem rolZpX (z : Byte) : Statement (.rolZpX z) := rfl
theorem rolAbs (w : Word) : Statement (.rolAbs w) := rfl
theorem rolAbsX (w : Word) : Statement (.rolAbsX w) := rfl
theorem rorAcc : Statement .rorAcc := rfl
theorem rorZp (z : Byte) : Statement (.rorZp z) := rfl
theorem rorZpX (z : Byte) : Statement (.rorZpX z) := rfl
theorem rorAbs (w : Word) : Statement (.rorAbs w) := rfl
theorem rorAbsX (w : Word) : Statement (.rorAbsX w) := rfl
theorem andImm (v : Byte) : Statement (.andImm v) := rfl
theorem andZp (z : Byte) : Statement (.andZp z) := rfl
theorem andZpX (z : Byte) : Statement (.andZpX z) := rfl
theorem andAbs (w : Word) : Statement (.andAbs w) := rfl
theorem andAbsX (w : Word) : Statement (.andAbsX w) := rfl
theorem andAbsY (w : Word) : Statement (.andAbsY w) := rfl
theorem andIndX (z : Byte) : Statement (.andIndX z) := rfl
theorem andIndY (z : Byte) : Statement (.andIndY z) := rfl
theorem oraImm (v : Byte) : Statement (.oraImm v) := rfl
theorem oraZp (z : Byte) : Statement (.oraZp z) := rfl
theorem oraZpX (z : Byte) : Statement (.oraZpX z) := rfl
theorem oraAbs (w : Word) : Statement (.oraAbs w) := rfl
theorem oraAbsX (w : Word) : Statement (.oraAbsX w) := rfl
theorem oraAbsY (w : Word) : Statement (.oraAbsY w) := rfl
theorem oraIndX (z : Byte) : Statement (.oraIndX z) := rfl
theorem oraIndY (z : Byte) : Statement (.oraIndY z) := rfl
theorem eorImm (v : Byte) : Statement (.eorImm v) := rfl
theorem eorZp (z : Byte) : Statement (.eorZp z) := rfl
theorem eorZpX (z : Byte) : Statement (.eorZpX z) := rfl
theorem eorAbs (w : Word) : Statement (.eorAbs w) := rfl
theorem eorAbsX (w : Word) : Statement (.eorAbsX w) := rfl
theorem eorAbsY (w : Word) : Statement (.eorAbsY w) := rfl
theorem eorIndX (z : Byte) : Statement (.eorIndX z) := rfl
theorem eorIndY (z : Byte) : Statement (.eorIndY z) := rfl
theorem cmpImm (v : Byte) : Statement (.cmpImm v) := rfl
theorem cmpZp (z : Byte) : Statement (.cmpZp z) := rfl
theorem cmpZpX (z : Byte) : Statement (.cmpZpX z) := rfl
theorem cmpAbs (w : Word) : Statement (.cmpAbs w) := rfl
theorem cmpAbsX (w : Word) : Statement (.cmpAbsX w) := rfl
theorem cmpAbsY (w : Word) : Statement (.cmpAbsY w) := rfl
theorem cmpIndX (z : Byte) : Statement (.cmpIndX z) := rfl
theorem cmpIndY (z : Byte) : Statement (.cmpIndY z) := rfl
theorem cpxImm (v : Byte) : Statement (.cpxImm v) := rfl
theorem cpxZp (z : Byte) : Statement (.cpxZp z) := rfl
theorem cpxAbs (w : Word) : Statement (.cpxAbs w) := rfl
theorem cpyImm (v : Byte) : Statement (.cpyImm v) := rfl
theorem cpyZp (z : Byte) : Statement (.cpyZp z) := rfl
theorem cpyAbs (w : Word) : Statement (.cpyAbs w) := rfl
theorem bitZp (z : Byte) : Statement (.bitZp z) := rfl
theorem bitAbs (w : Word) : Statement (.bitAbs w) := rfl
theorem bcc (off : Byte) : Statement (.bcc off) := rfl
theorem bcs (off : Byte) : Statement (.bcs off) := rfl
theorem beq (off : Byte) : Statement (.beq off) := rfl
theorem bmi (off : Byte) : Statement (.bmi off) := rfl
theorem bne (off : Byte) : Statement (.bne off) := rfl
theorem bpl (off : Byte) : Statement (.bpl off) := rfl
theorem bvc (off : Byte) : Statement (.bvc off) := rfl
theorem bvs (off : Byte) : Statement (.bvs off) := rfl
theorem clc : Statement .clc := rfl
theorem cld : Statement .cld := rfl
theorem cli : Statement .cli := rfl
theorem clv : Statement .clv := rfl
theorem sec : Statement .sec := rfl
theorem sed : Statement .sed := rfl
theorem sei : Statement .sei := rfl
theorem jmpAbs (w : Word) : Statement (.jmpAbs w) := rfl
theorem jmpInd (w : Word) : Statement (.jmpInd w) := rfl
theorem jsrAbs (w : Word) : Statement (.jsrAbs w) := rfl
theorem rts : Statement .rts := rfl
theorem brk : Statement .brk := rfl
theorem rti : Statement .rti := rfl
theorem php : Statement .php := rfl
theorem pha : Statement .pha := rfl
theorem plp : Statement .plp := rfl
theorem pla : Statement .pla := rfl
theorem nop : Statement .nop := rfl

end Sys2Proof.Laws.Legal

namespace Sys2Proof.Laws.Length

/-- The encoding is 1 byte plus the operand bytes of the mode (30_encoding.md R101). -/
def Statement (i : Instr) : Prop := (encode i).length = 1 + i.mode.operandBytes

theorem ldaImm (v : Byte) : Statement (.ldaImm v) := rfl
theorem ldaZp (z : Byte) : Statement (.ldaZp z) := rfl
theorem ldaZpX (z : Byte) : Statement (.ldaZpX z) := rfl
theorem ldaAbs (w : Word) : Statement (.ldaAbs w) := rfl
theorem ldaAbsX (w : Word) : Statement (.ldaAbsX w) := rfl
theorem ldaAbsY (w : Word) : Statement (.ldaAbsY w) := rfl
theorem ldaIndX (z : Byte) : Statement (.ldaIndX z) := rfl
theorem ldaIndY (z : Byte) : Statement (.ldaIndY z) := rfl
theorem ldxImm (v : Byte) : Statement (.ldxImm v) := rfl
theorem ldxZp (z : Byte) : Statement (.ldxZp z) := rfl
theorem ldxZpY (z : Byte) : Statement (.ldxZpY z) := rfl
theorem ldxAbs (w : Word) : Statement (.ldxAbs w) := rfl
theorem ldxAbsY (w : Word) : Statement (.ldxAbsY w) := rfl
theorem ldyImm (v : Byte) : Statement (.ldyImm v) := rfl
theorem ldyZp (z : Byte) : Statement (.ldyZp z) := rfl
theorem ldyZpX (z : Byte) : Statement (.ldyZpX z) := rfl
theorem ldyAbs (w : Word) : Statement (.ldyAbs w) := rfl
theorem ldyAbsX (w : Word) : Statement (.ldyAbsX w) := rfl
theorem staZp (z : Byte) : Statement (.staZp z) := rfl
theorem staZpX (z : Byte) : Statement (.staZpX z) := rfl
theorem staAbs (w : Word) : Statement (.staAbs w) := rfl
theorem staAbsX (w : Word) : Statement (.staAbsX w) := rfl
theorem staAbsY (w : Word) : Statement (.staAbsY w) := rfl
theorem staIndX (z : Byte) : Statement (.staIndX z) := rfl
theorem staIndY (z : Byte) : Statement (.staIndY z) := rfl
theorem stxZp (z : Byte) : Statement (.stxZp z) := rfl
theorem stxZpY (z : Byte) : Statement (.stxZpY z) := rfl
theorem stxAbs (w : Word) : Statement (.stxAbs w) := rfl
theorem styZp (z : Byte) : Statement (.styZp z) := rfl
theorem styZpX (z : Byte) : Statement (.styZpX z) := rfl
theorem styAbs (w : Word) : Statement (.styAbs w) := rfl
theorem tax : Statement .tax := rfl
theorem tay : Statement .tay := rfl
theorem tsx : Statement .tsx := rfl
theorem txa : Statement .txa := rfl
theorem txs : Statement .txs := rfl
theorem tya : Statement .tya := rfl
theorem adcImm (v : Byte) : Statement (.adcImm v) := rfl
theorem adcZp (z : Byte) : Statement (.adcZp z) := rfl
theorem adcZpX (z : Byte) : Statement (.adcZpX z) := rfl
theorem adcAbs (w : Word) : Statement (.adcAbs w) := rfl
theorem adcAbsX (w : Word) : Statement (.adcAbsX w) := rfl
theorem adcAbsY (w : Word) : Statement (.adcAbsY w) := rfl
theorem adcIndX (z : Byte) : Statement (.adcIndX z) := rfl
theorem adcIndY (z : Byte) : Statement (.adcIndY z) := rfl
theorem sbcImm (v : Byte) : Statement (.sbcImm v) := rfl
theorem sbcZp (z : Byte) : Statement (.sbcZp z) := rfl
theorem sbcZpX (z : Byte) : Statement (.sbcZpX z) := rfl
theorem sbcAbs (w : Word) : Statement (.sbcAbs w) := rfl
theorem sbcAbsX (w : Word) : Statement (.sbcAbsX w) := rfl
theorem sbcAbsY (w : Word) : Statement (.sbcAbsY w) := rfl
theorem sbcIndX (z : Byte) : Statement (.sbcIndX z) := rfl
theorem sbcIndY (z : Byte) : Statement (.sbcIndY z) := rfl
theorem incZp (z : Byte) : Statement (.incZp z) := rfl
theorem incZpX (z : Byte) : Statement (.incZpX z) := rfl
theorem incAbs (w : Word) : Statement (.incAbs w) := rfl
theorem incAbsX (w : Word) : Statement (.incAbsX w) := rfl
theorem decZp (z : Byte) : Statement (.decZp z) := rfl
theorem decZpX (z : Byte) : Statement (.decZpX z) := rfl
theorem decAbs (w : Word) : Statement (.decAbs w) := rfl
theorem decAbsX (w : Word) : Statement (.decAbsX w) := rfl
theorem inx : Statement .inx := rfl
theorem iny : Statement .iny := rfl
theorem dex : Statement .dex := rfl
theorem dey : Statement .dey := rfl
theorem aslAcc : Statement .aslAcc := rfl
theorem aslZp (z : Byte) : Statement (.aslZp z) := rfl
theorem aslZpX (z : Byte) : Statement (.aslZpX z) := rfl
theorem aslAbs (w : Word) : Statement (.aslAbs w) := rfl
theorem aslAbsX (w : Word) : Statement (.aslAbsX w) := rfl
theorem lsrAcc : Statement .lsrAcc := rfl
theorem lsrZp (z : Byte) : Statement (.lsrZp z) := rfl
theorem lsrZpX (z : Byte) : Statement (.lsrZpX z) := rfl
theorem lsrAbs (w : Word) : Statement (.lsrAbs w) := rfl
theorem lsrAbsX (w : Word) : Statement (.lsrAbsX w) := rfl
theorem rolAcc : Statement .rolAcc := rfl
theorem rolZp (z : Byte) : Statement (.rolZp z) := rfl
theorem rolZpX (z : Byte) : Statement (.rolZpX z) := rfl
theorem rolAbs (w : Word) : Statement (.rolAbs w) := rfl
theorem rolAbsX (w : Word) : Statement (.rolAbsX w) := rfl
theorem rorAcc : Statement .rorAcc := rfl
theorem rorZp (z : Byte) : Statement (.rorZp z) := rfl
theorem rorZpX (z : Byte) : Statement (.rorZpX z) := rfl
theorem rorAbs (w : Word) : Statement (.rorAbs w) := rfl
theorem rorAbsX (w : Word) : Statement (.rorAbsX w) := rfl
theorem andImm (v : Byte) : Statement (.andImm v) := rfl
theorem andZp (z : Byte) : Statement (.andZp z) := rfl
theorem andZpX (z : Byte) : Statement (.andZpX z) := rfl
theorem andAbs (w : Word) : Statement (.andAbs w) := rfl
theorem andAbsX (w : Word) : Statement (.andAbsX w) := rfl
theorem andAbsY (w : Word) : Statement (.andAbsY w) := rfl
theorem andIndX (z : Byte) : Statement (.andIndX z) := rfl
theorem andIndY (z : Byte) : Statement (.andIndY z) := rfl
theorem oraImm (v : Byte) : Statement (.oraImm v) := rfl
theorem oraZp (z : Byte) : Statement (.oraZp z) := rfl
theorem oraZpX (z : Byte) : Statement (.oraZpX z) := rfl
theorem oraAbs (w : Word) : Statement (.oraAbs w) := rfl
theorem oraAbsX (w : Word) : Statement (.oraAbsX w) := rfl
theorem oraAbsY (w : Word) : Statement (.oraAbsY w) := rfl
theorem oraIndX (z : Byte) : Statement (.oraIndX z) := rfl
theorem oraIndY (z : Byte) : Statement (.oraIndY z) := rfl
theorem eorImm (v : Byte) : Statement (.eorImm v) := rfl
theorem eorZp (z : Byte) : Statement (.eorZp z) := rfl
theorem eorZpX (z : Byte) : Statement (.eorZpX z) := rfl
theorem eorAbs (w : Word) : Statement (.eorAbs w) := rfl
theorem eorAbsX (w : Word) : Statement (.eorAbsX w) := rfl
theorem eorAbsY (w : Word) : Statement (.eorAbsY w) := rfl
theorem eorIndX (z : Byte) : Statement (.eorIndX z) := rfl
theorem eorIndY (z : Byte) : Statement (.eorIndY z) := rfl
theorem cmpImm (v : Byte) : Statement (.cmpImm v) := rfl
theorem cmpZp (z : Byte) : Statement (.cmpZp z) := rfl
theorem cmpZpX (z : Byte) : Statement (.cmpZpX z) := rfl
theorem cmpAbs (w : Word) : Statement (.cmpAbs w) := rfl
theorem cmpAbsX (w : Word) : Statement (.cmpAbsX w) := rfl
theorem cmpAbsY (w : Word) : Statement (.cmpAbsY w) := rfl
theorem cmpIndX (z : Byte) : Statement (.cmpIndX z) := rfl
theorem cmpIndY (z : Byte) : Statement (.cmpIndY z) := rfl
theorem cpxImm (v : Byte) : Statement (.cpxImm v) := rfl
theorem cpxZp (z : Byte) : Statement (.cpxZp z) := rfl
theorem cpxAbs (w : Word) : Statement (.cpxAbs w) := rfl
theorem cpyImm (v : Byte) : Statement (.cpyImm v) := rfl
theorem cpyZp (z : Byte) : Statement (.cpyZp z) := rfl
theorem cpyAbs (w : Word) : Statement (.cpyAbs w) := rfl
theorem bitZp (z : Byte) : Statement (.bitZp z) := rfl
theorem bitAbs (w : Word) : Statement (.bitAbs w) := rfl
theorem bcc (off : Byte) : Statement (.bcc off) := rfl
theorem bcs (off : Byte) : Statement (.bcs off) := rfl
theorem beq (off : Byte) : Statement (.beq off) := rfl
theorem bmi (off : Byte) : Statement (.bmi off) := rfl
theorem bne (off : Byte) : Statement (.bne off) := rfl
theorem bpl (off : Byte) : Statement (.bpl off) := rfl
theorem bvc (off : Byte) : Statement (.bvc off) := rfl
theorem bvs (off : Byte) : Statement (.bvs off) := rfl
theorem clc : Statement .clc := rfl
theorem cld : Statement .cld := rfl
theorem cli : Statement .cli := rfl
theorem clv : Statement .clv := rfl
theorem sec : Statement .sec := rfl
theorem sed : Statement .sed := rfl
theorem sei : Statement .sei := rfl
theorem jmpAbs (w : Word) : Statement (.jmpAbs w) := rfl
theorem jmpInd (w : Word) : Statement (.jmpInd w) := rfl
theorem jsrAbs (w : Word) : Statement (.jsrAbs w) := rfl
theorem rts : Statement .rts := rfl
theorem brk : Statement .brk := rfl
theorem rti : Statement .rti := rfl
theorem php : Statement .php := rfl
theorem pha : Statement .pha := rfl
theorem plp : Statement .plp := rfl
theorem pla : Statement .pla := rfl
theorem nop : Statement .nop := rfl

end Sys2Proof.Laws.Length
end

