-- ==== Sys2Proof/Laws/Results.lean ====
section
/-! SUPPORT. The laws of what instructions compute: the flags each result leaves, steps by one, displacements, and
the updates `setArith` and `setShiftFlags`, field by field. -/

namespace Sys2Proof.Machine

/-! ### setArith -/

@[simp] theorem State.setArith_a (s : State) (r : AluResult) : (s.setArith r).a = r.result := rfl
@[simp] theorem State.setArith_x (s : State) (r : AluResult) : (s.setArith r).x = s.x := rfl
@[simp] theorem State.setArith_y (s : State) (r : AluResult) : (s.setArith r).y = s.y := rfl
@[simp] theorem State.setArith_sp (s : State) (r : AluResult) : (s.setArith r).sp = s.sp := rfl
@[simp] theorem State.setArith_p (s : State) (r : AluResult) : (s.setArith r).p = setArithFlags s.p r := rfl
@[simp] theorem State.setArith_pc (s : State) (r : AluResult) : (s.setArith r).pc = s.pc := rfl
@[simp] theorem State.setArith_mem (s : State) (r : AluResult) : (s.setArith r).mem = s.mem := rfl
@[simp] theorem State.setArith_windows (s : State) (r : AluResult) : (s.setArith r).windows = s.windows := rfl
@[simp] theorem State.setArith_busFailures (s : State) (r : AluResult) : (s.setArith r).busFailures = s.busFailures := rfl
@[simp] theorem State.setArith_busHistory (s : State) (r : AluResult) : (s.setArith r).busHistory = s.busHistory := rfl
@[simp] theorem State.setArith_cycles (s : State) (r : AluResult) : (s.setArith r).cycles = s.cycles := rfl
@[simp] theorem State.setArith_diags (s : State) (r : AluResult) : (s.setArith r).diags = s.diags := rfl
@[simp] theorem State.setArith_accesses (s : State) (r : AluResult) : (s.setArith r).accesses = s.accesses := rfl
@[simp] theorem State.setArith_readByte (s : State) (r : AluResult) (b : Word) : (s.setArith r).readByte b = s.readByte b := rfl

/-! ### setShiftFlags -/

@[simp] theorem State.setShiftFlags_a (s : State) (r : ShiftResult) : (s.setShiftFlags r).a = s.a := rfl
@[simp] theorem State.setShiftFlags_x (s : State) (r : ShiftResult) : (s.setShiftFlags r).x = s.x := rfl
@[simp] theorem State.setShiftFlags_y (s : State) (r : ShiftResult) : (s.setShiftFlags r).y = s.y := rfl
@[simp] theorem State.setShiftFlags_sp (s : State) (r : ShiftResult) : (s.setShiftFlags r).sp = s.sp := rfl
@[simp] theorem State.setShiftFlags_p (s : State) (r : ShiftResult) : (s.setShiftFlags r).p = Machine.setNZ (Machine.setFlag s.p .c r.carry) r.result := rfl
@[simp] theorem State.setShiftFlags_pc (s : State) (r : ShiftResult) : (s.setShiftFlags r).pc = s.pc := rfl
@[simp] theorem State.setShiftFlags_mem (s : State) (r : ShiftResult) : (s.setShiftFlags r).mem = s.mem := rfl
@[simp] theorem State.setShiftFlags_windows (s : State) (r : ShiftResult) : (s.setShiftFlags r).windows = s.windows := rfl
@[simp] theorem State.setShiftFlags_busFailures (s : State) (r : ShiftResult) : (s.setShiftFlags r).busFailures = s.busFailures := rfl
@[simp] theorem State.setShiftFlags_busHistory (s : State) (r : ShiftResult) : (s.setShiftFlags r).busHistory = s.busHistory := rfl
@[simp] theorem State.setShiftFlags_cycles (s : State) (r : ShiftResult) : (s.setShiftFlags r).cycles = s.cycles := rfl
@[simp] theorem State.setShiftFlags_diags (s : State) (r : ShiftResult) : (s.setShiftFlags r).diags = s.diags := rfl
@[simp] theorem State.setShiftFlags_accesses (s : State) (r : ShiftResult) : (s.setShiftFlags r).accesses = s.accesses := rfl
@[simp] theorem State.setShiftFlags_readByte (s : State) (r : ShiftResult) (b : Word) : (s.setShiftFlags r).readByte b = s.readByte b := rfl

/-! ### Flags a result leaves -/

/-- The flags ADC and SBC leave (42_arithmetic.md R241, R242). -/
theorem State.flag_setArith (s : State) (r : AluResult) (f : Flag) : (s.setArith r).flag f =
    if f = .z then r.result == 0 else if f = .n then r.result.getLsbD 7 else if f = .v then r.overflow else
    if f = .c then r.carry else s.flag f := by
  cases f <;> simp [State.flag, setArithFlags, getFlag_setNZ, getFlag_setFlag]

/-- The flags a shift leaves (44_shifts.md R280). -/
theorem State.flag_setShiftFlags (s : State) (r : ShiftResult) (f : Flag) : (s.setShiftFlags r).flag f =
    if f = .z then r.result == 0 else if f = .n then r.result.getLsbD 7 else if f = .c then r.carry else s.flag f := by
  cases f <;> simp [State.flag, getFlag_setNZ, getFlag_setFlag]

/-- The flags a compare leaves (46_compare_bit.md R320). -/
theorem getFlag_compareFlags (p r m : Byte) (f : Flag) : getFlag (compareFlags p r m) f =
    if f = .z then r == m else if f = .n then (r - m).getLsbD 7 else if f = .c then decide (m.toNat ≤ r.toNat)
    else getFlag p f := by
  have hr := r.isLt
  have hm := m.isLt
  have e : BitVec.ofNat 8 (((r.toNat : Int) - m.toNat) % 256).toNat = r - m := by
    apply BitVec.eq_of_toNat_eq
    rw [BitVec.toNat_sub, BitVec.toNat_ofNat]
    omega
  have hc : decide ((r.toNat : Int) - m.toNat ≥ 0) = decide (m.toNat ≤ r.toNat) := by
    rw [decide_eq_decide]
    omega
  have hz : (r - m == 0#8) = (r == m) := by
    rw [Bool.eq_iff_iff]
    simp only [beq_iff_eq]
    constructor
    · intro h
      have := congrArg BitVec.toNat h
      rw [BitVec.toNat_sub] at this
      apply BitVec.eq_of_toNat_eq
      simp at this
      omega
    · rintro rfl
      simp
  simp only [compareFlags, e, hc]
  cases f <;> simp [getFlag_setNZ, getFlag_setFlag, hz]

/-- The flags BIT leaves (46_compare_bit.md R324). -/
theorem getFlag_bitFlags (p a m : Byte) (f : Flag) : getFlag (bitFlags p a m) f =
    if f = .z then (a &&& m) == 0 else if f = .v then m.getLsbD 6 else if f = .n then m.getLsbD 7 else getFlag p f := by
  simp [bitFlags, getFlag_setFlag]

/-! ### Bytes and words as numbers -/

/-- A byte read as signed. -/
theorem toInt_byte (a : Byte) : a.toInt = if a.toNat < 128 then (a.toNat : Int) else a.toNat - 256 := by
  have := a.isLt
  rw [BitVec.toInt_eq_toNat_cond]
  split <;> split <;> omega

theorem getLsbD_seven (a : Byte) : a.getLsbD 7 = decide (128 ≤ a.toNat) := by
  have h := BitVec.msb_eq_getLsbD_last a
  rw [BitVec.msb_eq_decide] at h
  simpa using h.symm

/-- The target of a branch (47_branches.md R340). -/
theorem toNat_add_sext (pc : Word) (off : Byte) : ((pc + sext off).toNat : Int) = ((pc.toNat : Int) + off.toInt) % 65536 := by
  have h : (sext off).toNat = (off.toInt % 65536).toNat := by
    rw [sext, ← BitVec.toInt_signExtend_of_le (x := off) (v := 16) (by omega)]
    have := BitVec.toNat_lt_twoPow_of_le (x := BitVec.signExtend 16 off) (le_refl 16)
    rw [BitVec.toInt_eq_toNat_cond]
    split <;> omega
  rw [BitVec.toNat_add, h]
  omega

theorem decOfByte_le (b : Byte) : decOfByte b ≤ 99 := by
  simp only [decOfByte, bcdDigit]
  omega

theorem ofNat_toNat_zext (v : Byte) : BitVec.ofNat 16 v.toNat = zext v := by
  apply BitVec.eq_of_toNat_eq
  rw [zext_toNat, BitVec.toNat_ofNat]
  have := v.isLt
  omega

theorem ofNat_hiByte (w : Word) : BitVec.ofNat 8 (w.toNat / 256) = hiByte w := by
  apply BitVec.eq_of_toNat_eq
  rw [hiByte_toNat, BitVec.toNat_ofNat]
  omega

theorem ofNat_loByte (w : Word) : BitVec.ofNat 8 (w.toNat % 256) = loByte w := by
  apply BitVec.eq_of_toNat_eq
  rw [loByte_toNat, BitVec.toNat_ofNat]
  omega

/-- The address of the high byte of the AbsoluteIndirect pointer, as a number (20_memory.md R68). -/
theorem ofNat_bugHiAddress (w : Word) : BitVec.ofNat 16 (w.toNat / 256 * 256 + (w.toNat + 1) % 256) = bugHiAddress w := by
  apply BitVec.eq_of_toNat_eq
  rw [bugHiAddress, joinBytes_toNat, hiByte_toNat, BitVec.toNat_add, loByte_toNat, BitVec.toNat_ofNat]
  have := w.isLt
  simp
  omega

/-- The page-cross indication, as numbers (30_encoding.md R122). -/
theorem indexed_crossed (w : Word) (i : Byte) :
    (indexed w i).crossed = decide (w.toNat / 256 ≠ (indexed w i).ea.toNat / 256) := by
  simp only [indexed]
  rw [Bool.eq_iff_iff]
  simp only [bne_iff_ne, decide_eq_true_eq, ne_eq, ← hiByte_toNat, not_iff_not]
  exact ⟨fun h => by rw [h], fun h => BitVec.eq_of_toNat_eq h⟩

end Sys2Proof.Machine
end

