-- ==== Sys2Proof/Laws/Session.lean ====
section
/-! SUPPORT. Sessions: one event after the other, and what each leaves. -/

namespace Sys2Proof.Machine

@[simp] theorem session_nil (x : Session) : session [] x = ([], x) := rfl

@[simp] theorem session_cons (e : Event) (es : List Event) (x : Session) :
    session (e :: es) x = (act e x :: (session es (x.next e)).1, (session es (x.next e)).2) := rfl

@[simp] theorem stateAfter_next (e : Event) (s t : State) : stateAfter e s (.next t) = t := rfl
@[simp] theorem stateAfter_decodeFault (e : Event) (s t : State) (op : Byte) (a : Word) :
    stateAfter e s (.fault (.decodeFault op a t)) = t := rfl
@[simp] theorem stateAfter_busFault (e : Event) (s : State) (f : BusFailure) (left : BusLeft) :
    stateAfter e s (.fault (.busFault f left)) = s.afterBusFault (Config.afterBusFault s e) left := rfl
@[simp] theorem stateAfter_refused (e : Event) (s : State) (r : Refusal) : stateAfter e s (.refused r) = s := rfl

/-- What a BusFault leaves, whatever the spec leaves unspecified: the set-up of the bus, and memory as the served accesses
left it but for the write that failed. -/
theorem afterBusFault_mem (s : State) (u : Unspecified) (left : BusLeft) :
    (s.afterBusFault u left).windows = s.windows ∧ (s.afterBusFault u left).busFailures = s.busFailures ∧
    (s.afterBusFault u left).asked = (left.accesses ++ [left.failed]).reverse ++ s.asked ∧
    ((s.afterBusFault u left).mem = left.mem ∨ left.failed.kind = .write ∧
      (s.afterBusFault u left).mem = State.stored { s with mem := left.mem } left.failed.address left.failed.value) := by
  unfold State.afterBusFault
  split
  · exact ⟨rfl, rfl, rfl, .inr ⟨(‹_ ∧ _›).1, rfl⟩⟩
  · exact ⟨rfl, rfl, rfl, .inl rfl⟩

theorem wf_afterBusFault {s : State} {u : Unspecified} {left : BusLeft} (h : left.mem.wf = true) :
    (s.afterBusFault u left).wf = true := by
  rcases (afterBusFault_mem s u left).2.2.2 with e | ⟨-, e⟩
  · simpa only [State.wf, e] using h
  · simp only [State.wf, e]
    exact wf_stored h _ _

end Sys2Proof.Machine
end

