-- ==== Sys2Proof/Laws/Stack.lean ====
section
/-! SUPPORT. The stack operations and the trap on the plain-RAM bus: the state each leaves. And that the
addresses of two or three pushes differ from each other and from the vectors. -/

namespace Sys2Proof.Machine

theorem stackAddress_ne_next (x : Byte) : stackAddress x ≠ stackAddress (x + 1) := fun h => by
  have := stackAddress_inj.1 h
  bv_omega

theorem stackAddress_ne_next_next (x : Byte) : stackAddress x ≠ stackAddress (x + 1 + 1) := fun h => by
  have := stackAddress_inj.1 h
  bv_omega

/-- The stack page is below 0x0200 (20_memory.md R64). -/
theorem ne_stackAddress (x : Byte) (w : Word) (h : 0x0200 ≤ w.toNat) : w ≠ stackAddress x := fun e => by
  have := congrArg BitVec.toNat e
  rw [stackAddress_toNat] at this
  have := x.isLt
  omega

theorem push_of_plain {s : State} (h : s.plainRam) (v : Byte) : push v s = .ok (s.pushed v) :=
  push_ok_iff.2 ⟨_, busWrite_of_plain h _ _, rfl⟩

theorem pop_of_plain {s : State} (h : s.plainRam) :
    pop s = .ok (s.readByte (stackAddress (s.sp - 1)), s.popped) :=
  pop_ok_iff.2 ⟨busRead_of_plain h _, rfl⟩

theorem pushWord_of_plain {s : State} (h : s.plainRam) (w : Word) :
    pushWord w s = .ok ((s.pushed (hiByte w)).pushed (loByte w)) := by
  rw [pushWord, push_of_plain h, ok_bind, push_of_plain (s := s.pushed (hiByte w)) h]

theorem popWord_of_plain {s : State} (h : s.plainRam) :
    popWord s = .ok (joinBytes (s.readByte (stackAddress (s.sp - 1 - 1))) (s.readByte (stackAddress (s.sp - 1))),
      s.popped.popped) := by
  rw [popWord, pop_of_plain h, ok_bind]
  simp only
  rw [pop_of_plain (s := s.popped) h, ok_bind]
  rfl

/-- Trap entry (60_exceptions.md R520): three bytes pushed, I set, and the vector read as it was before the pushes,
which touch only the stack page. -/
theorem takeTrap_of_plain {s : State} (h : s.plainRam) (vector ret : Word) (h1 : 0x0200 ≤ vector.toNat)
    (h2 : vector.toNat < 65535) : takeTrap vector ret s =
      .ok ((((((s.pushed (hiByte ret)).pushed (loByte ret)).pushed (pushedP s.p)).setFlag .i true).withReads
        [vector, vector + 1]).setPC (joinBytes (s.readByte (vector + 1)) (s.readByte vector))) := by
  have h3 : 0x0200 ≤ (vector + 1).toNat := by
    rw [BitVec.toNat_add]
    simp
    omega
  rw [takeTrap, pushWord_of_plain h]
  simp only [ok_bind]
  rw [push_of_plain (by simpa [State.plainRam] using h)]
  simp only [ok_bind]
  rw [read16_of_plain (by simpa [State.plainRam] using h)]
  simp only [ok_bind, pure_eq_ok]
  have e : ∀ w : Word, 0x0200 ≤ w.toNat →
      ((((s.pushed (hiByte ret)).pushed (loByte ret)).pushed (pushedP s.p)).setFlag .i true).readByte w =
        s.readByte w := by
    intro w hw
    show State.readByte (State.pushed _ _) w = _
    rw [State.pushed_readByte_other _ _ (ne_stackAddress _ _ hw), State.pushed_readByte_other _ _ (ne_stackAddress _ _ hw),
      State.pushed_readByte_other _ _ (ne_stackAddress _ _ hw)]
  simp only [State.pushed_p, e _ h1, e _ h3]

/-- Trap return (60_exceptions.md R521): P, then PC, from three pops. -/
theorem returnFromTrap_of_plain {s : State} (h : s.plainRam) : returnFromTrap s =
    .ok ((((s.popped.setP (s.readByte (stackAddress (s.sp - 1)))).popped).popped).setPC
      (joinBytes (s.readByte (stackAddress (s.sp - 1 - 1 - 1))) (s.readByte (stackAddress (s.sp - 1 - 1))))) := by
  rw [returnFromTrap, pop_of_plain h]
  simp only [ok_bind]
  rw [popWord_of_plain (by simpa [State.plainRam] using h)]
  simp

end Sys2Proof.Machine
end

