-- ==== Sys2Proof/Tests/Slice0.lean ====
section
/-! SUPPORT. The model's own tests. Expected results are the spec's: the opcode bytes, modes and cycle numbers of
spec/opcode_table.json, the vectors of 95_test_vectors.md, and hand calculation from the rules cited. Last, one
named witness for each statement that has hypotheses. -/

namespace Sys2Proof.Tests

open Sys2Proof Sys2Proof.Machine

/-! ### Helpers -/

/-- A machine with the registers given, `code` at `pc` and the listed bytes, over the plain-RAM bus. -/
def mach (pc : Word) (code : List Byte) (a x y sp p : Byte) (cells : List (Word × Byte)) : State :=
  let s := { State.reset with a := a, x := x, y := y, sp := sp, p := p, pc := pc }
  (cells.foldl (fun s c => s.writeByte c.1 c.2) s).storeBytes pc code

/-- The same machine on a bus that fails the listed accesses. -/
def onBus (s : State) (fs : List BusFailure) : State := { s with busFailures := fs }

/-- The same machine with other things than RAM behind some addresses. -/
def behindWindows (s : State) (ws : List BusWindow) : State := { s with windows := ws }

/-- The state a bus is left in when it serves every access of a list. -/
def servedOf : Except (Option BusFailure) State → Option State
  | .ok s => some s
  | .error _ => none

/-- The failure that ends the serving of a list. -/
def failureOf : Except (Option BusFailure) State → Option BusFailure
  | .error f => f
  | .ok _ => none

/-- The next state of an outcome. -/
def nextOf : StepOutcome → Option State
  | .next s => some s
  | _ => none

/-- The failure that a BusFault reports. -/
def busFaultOf : StepOutcome → Option BusFailure
  | .fault (.busFault f _) => some f
  | _ => none

/-- Why an outcome is a refusal. -/
def refusalOf : StepOutcome → Option Refusal
  | .refused r => some r
  | _ => none

/-- What a BusFault leaves of the bus. -/
def busLeftOf : StepOutcome → Option BusLeft
  | .fault (.busFault _ left) => some left
  | _ => none

/-- The byte, its address and the state that a DecodeFault answers. -/
def decodeFaultOf : StepOutcome → Option (Byte × Word × State)
  | .fault (.decodeFault op at' left) => some (op, at', left)
  | _ => none

/-- What a vector of the spec states of an outcome: the registers, PC, the cycles, the diagnostics, and bytes. -/
structure Seen where
  a      : Byte
  x      : Byte
  y      : Byte
  sp     : Byte
  p      : Byte
  pc     : Word
  cycles : Option Nat
  diags  : List Diag
  bytes  : List Byte
  deriving DecidableEq, Repr

/-- What is seen of a state, or of an outcome, with the bytes at the addresses given. -/
def seenState (s : State) (addrs : List Word) : Seen :=
  ⟨s.a, s.x, s.y, s.sp, s.p, s.pc, s.cycles, s.diags, addrs.map s.readByte⟩

def seen (o : StepOutcome) (addrs : List Word) : Option Seen := (nextOf o).map (fun s => seenState s addrs)

/-! ### Well-formedness: each check with an ill-formed pair it refuses, beside a legal one -/

theorem test_wf_accumulator_family : legalPair .lda (.immediate 0) = true ∧ legalPair .lda (.zeroPageIndexedY 0) = false ∧ legalPair .cmp (.implied) = false ∧ legalPair .eor (.absoluteIndirect 0) = false := by decide

theorem test_wf_ldx : legalPair .ldx (.zeroPageIndexedY 0) = true ∧ legalPair .ldx (.zeroPageIndexedX 0) = false ∧ legalPair .ldx (.absoluteIndexedX 0) = false := by decide

theorem test_wf_ldy : legalPair .ldy (.zeroPageIndexedX 0) = true ∧ legalPair .ldy (.zeroPageIndexedY 0) = false ∧ legalPair .ldy (.indirectY 0) = false := by decide

theorem test_wf_sta : legalPair .sta (.zeroPage 0) = true ∧ legalPair .sta (.immediate 0) = false ∧ legalPair .sta (.accumulator) = false := by decide

theorem test_wf_stx_sty : legalPair .stx (.zeroPageIndexedY 0) = true ∧ legalPair .stx (.absoluteIndexedY 0) = false ∧ legalPair .sty (.zeroPageIndexedX 0) = true ∧ legalPair .sty (.absoluteIndexedX 0) = false := by decide

theorem test_wf_inc_dec : legalPair .inc (.absoluteIndexedX 0) = true ∧ legalPair .inc (.accumulator) = false ∧ legalPair .dec (.absoluteIndexedY 0) = false := by decide

theorem test_wf_shifts : legalPair .asl (.accumulator) = true ∧ legalPair .asl (.implied) = false ∧ legalPair .ror (.immediate 0) = false ∧ legalPair .rol (.absoluteIndexedY 0) = false := by decide

theorem test_wf_cpx_cpy_bit : legalPair .cpx (.immediate 0) = true ∧ legalPair .cpx (.zeroPageIndexedX 0) = false ∧ legalPair .cpy (.absoluteIndexedX 0) = false ∧ legalPair .bit (.absolute 0) = true ∧ legalPair .bit (.immediate 0) = false := by decide

theorem test_wf_branches : legalPair .bcc (.relative 0) = true ∧ legalPair .bcc (.absolute 0) = false ∧ legalPair .bvs (.immediate 0) = false := by decide

theorem test_wf_jumps : legalPair .jmp (.absoluteIndirect 0) = true ∧ legalPair .jmp (.zeroPage 0) = false ∧ legalPair .jsr (.absolute 0) = true ∧ legalPair .jsr (.absoluteIndirect 0) = false := by decide

theorem test_wf_implied : legalPair .tax (.implied) = true ∧ legalPair .tax (.accumulator) = false ∧ legalPair .brk (.immediate 0) = false ∧ legalPair .nop (.zeroPage 0) = false ∧ legalPair .rts (.absolute 0) = false := by decide

/-! ### Decode: a word of every row of spec/opcode_table.json, its bits written out, with the row's cycles (R610, R611) -/

/-- A row of the opcode table: bytes, the instruction they stand for, base cycles, whether marked `+`. -/
def row (bs : List Byte) (i : Instr) (cycles : Nat) (plus : Bool) : Bool :=
  decide (decode bs = .ok (i, [])) && decide (baseCycles i.mnemonic i.mode = some cycles) &&
  decide (pageCrossCosts i.mnemonic i.mode = plus) && decide (encode i = bs) &&
  decide (i.mode = .relative ∨ (i.mode, cycles, plus) ∈ cycleCells i.mnemonic)

/-- Loads and stores: 40_loads_stores.md. -/
theorem test_decode_loadsStores : ([row [0b10101001, 0b10000001] (.ldaImm 0x81) 2 false,
    row [0b10100101, 0b10000001] (.ldaZp 0x81) 3 false,
    row [0b10110101, 0b10000001] (.ldaZpX 0x81) 4 false,
    row [0b10101101, 0b00110100, 0b10010010] (.ldaAbs 0x9234) 4 false,
    row [0b10111101, 0b00110100, 0b10010010] (.ldaAbsX 0x9234) 4 true,
    row [0b10111001, 0b00110100, 0b10010010] (.ldaAbsY 0x9234) 4 true,
    row [0b10100001, 0b10000001] (.ldaIndX 0x81) 6 false,
    row [0b10110001, 0b10000001] (.ldaIndY 0x81) 5 true,
    row [0b10100010, 0b10000001] (.ldxImm 0x81) 2 false,
    row [0b10100110, 0b10000001] (.ldxZp 0x81) 3 false,
    row [0b10110110, 0b10000001] (.ldxZpY 0x81) 4 false,
    row [0b10101110, 0b00110100, 0b10010010] (.ldxAbs 0x9234) 4 false,
    row [0b10111110, 0b00110100, 0b10010010] (.ldxAbsY 0x9234) 4 true,
    row [0b10100000, 0b10000001] (.ldyImm 0x81) 2 false,
    row [0b10100100, 0b10000001] (.ldyZp 0x81) 3 false,
    row [0b10110100, 0b10000001] (.ldyZpX 0x81) 4 false,
    row [0b10101100, 0b00110100, 0b10010010] (.ldyAbs 0x9234) 4 false,
    row [0b10111100, 0b00110100, 0b10010010] (.ldyAbsX 0x9234) 4 true,
    row [0b10000101, 0b10000001] (.staZp 0x81) 3 false,
    row [0b10010101, 0b10000001] (.staZpX 0x81) 4 false,
    row [0b10001101, 0b00110100, 0b10010010] (.staAbs 0x9234) 4 false,
    row [0b10011101, 0b00110100, 0b10010010] (.staAbsX 0x9234) 5 false,
    row [0b10011001, 0b00110100, 0b10010010] (.staAbsY 0x9234) 5 false,
    row [0b10000001, 0b10000001] (.staIndX 0x81) 6 false,
    row [0b10010001, 0b10000001] (.staIndY 0x81) 6 false,
    row [0b10000110, 0b10000001] (.stxZp 0x81) 3 false,
    row [0b10010110, 0b10000001] (.stxZpY 0x81) 4 false,
    row [0b10001110, 0b00110100, 0b10010010] (.stxAbs 0x9234) 4 false,
    row [0b10000100, 0b10000001] (.styZp 0x81) 3 false,
    row [0b10010100, 0b10000001] (.styZpX 0x81) 4 false,
    row [0b10001100, 0b00110100, 0b10010010] (.styAbs 0x9234) 4 false] : List Bool).all id = true := by decide

/-- Register transfers: 41_transfers.md. -/
theorem test_decode_transfers : ([row [0b10101010] .tax 2 false,
    row [0b10101000] .tay 2 false,
    row [0b10111010] .tsx 2 false,
    row [0b10001010] .txa 2 false,
    row [0b10011010] .txs 2 false,
    row [0b10011000] .tya 2 false] : List Bool).all id = true := by decide

/-- Arithmetic: 42_arithmetic.md. -/
theorem test_decode_arithmetic : ([row [0b01101001, 0b10000001] (.adcImm 0x81) 2 false,
    row [0b01100101, 0b10000001] (.adcZp 0x81) 3 false,
    row [0b01110101, 0b10000001] (.adcZpX 0x81) 4 false,
    row [0b01101101, 0b00110100, 0b10010010] (.adcAbs 0x9234) 4 false,
    row [0b01111101, 0b00110100, 0b10010010] (.adcAbsX 0x9234) 4 true,
    row [0b01111001, 0b00110100, 0b10010010] (.adcAbsY 0x9234) 4 true,
    row [0b01100001, 0b10000001] (.adcIndX 0x81) 6 false,
    row [0b01110001, 0b10000001] (.adcIndY 0x81) 5 true,
    row [0b11101001, 0b10000001] (.sbcImm 0x81) 2 false,
    row [0b11100101, 0b10000001] (.sbcZp 0x81) 3 false,
    row [0b11110101, 0b10000001] (.sbcZpX 0x81) 4 false,
    row [0b11101101, 0b00110100, 0b10010010] (.sbcAbs 0x9234) 4 false,
    row [0b11111101, 0b00110100, 0b10010010] (.sbcAbsX 0x9234) 4 true,
    row [0b11111001, 0b00110100, 0b10010010] (.sbcAbsY 0x9234) 4 true,
    row [0b11100001, 0b10000001] (.sbcIndX 0x81) 6 false,
    row [0b11110001, 0b10000001] (.sbcIndY 0x81) 5 true] : List Bool).all id = true := by decide

/-- Increment and decrement: 43_incdec.md. -/
theorem test_decode_incDec : ([row [0b11100110, 0b10000001] (.incZp 0x81) 5 false,
    row [0b11110110, 0b10000001] (.incZpX 0x81) 6 false,
    row [0b11101110, 0b00110100, 0b10010010] (.incAbs 0x9234) 6 false,
    row [0b11111110, 0b00110100, 0b10010010] (.incAbsX 0x9234) 7 false,
    row [0b11000110, 0b10000001] (.decZp 0x81) 5 false,
    row [0b11010110, 0b10000001] (.decZpX 0x81) 6 false,
    row [0b11001110, 0b00110100, 0b10010010] (.decAbs 0x9234) 6 false,
    row [0b11011110, 0b00110100, 0b10010010] (.decAbsX 0x9234) 7 false,
    row [0b11101000] .inx 2 false,
    row [0b11001000] .iny 2 false,
    row [0b11001010] .dex 2 false,
    row [0b10001000] .dey 2 false] : List Bool).all id = true := by decide

/-- Shifts and rotates: 44_shifts.md. -/
theorem test_decode_shifts : ([row [0b00001010] .aslAcc 2 false,
    row [0b00000110, 0b10000001] (.aslZp 0x81) 5 false,
    row [0b00010110, 0b10000001] (.aslZpX 0x81) 6 false,
    row [0b00001110, 0b00110100, 0b10010010] (.aslAbs 0x9234) 6 false,
    row [0b00011110, 0b00110100, 0b10010010] (.aslAbsX 0x9234) 7 false,
    row [0b01001010] .lsrAcc 2 false,
    row [0b01000110, 0b10000001] (.lsrZp 0x81) 5 false,
    row [0b01010110, 0b10000001] (.lsrZpX 0x81) 6 false,
    row [0b01001110, 0b00110100, 0b10010010] (.lsrAbs 0x9234) 6 false,
    row [0b01011110, 0b00110100, 0b10010010] (.lsrAbsX 0x9234) 7 false,
    row [0b00101010] .rolAcc 2 false,
    row [0b00100110, 0b10000001] (.rolZp 0x81) 5 false,
    row [0b00110110, 0b10000001] (.rolZpX 0x81) 6 false,
    row [0b00101110, 0b00110100, 0b10010010] (.rolAbs 0x9234) 6 false,
    row [0b00111110, 0b00110100, 0b10010010] (.rolAbsX 0x9234) 7 false,
    row [0b01101010] .rorAcc 2 false,
    row [0b01100110, 0b10000001] (.rorZp 0x81) 5 false,
    row [0b01110110, 0b10000001] (.rorZpX 0x81) 6 false,
    row [0b01101110, 0b00110100, 0b10010010] (.rorAbs 0x9234) 6 false,
    row [0b01111110, 0b00110100, 0b10010010] (.rorAbsX 0x9234) 7 false] : List Bool).all id = true := by decide

/-- Logical operations: 45_logical.md. -/
theorem test_decode_logical : ([row [0b00101001, 0b10000001] (.andImm 0x81) 2 false,
    row [0b00100101, 0b10000001] (.andZp 0x81) 3 false,
    row [0b00110101, 0b10000001] (.andZpX 0x81) 4 false,
    row [0b00101101, 0b00110100, 0b10010010] (.andAbs 0x9234) 4 false,
    row [0b00111101, 0b00110100, 0b10010010] (.andAbsX 0x9234) 4 true,
    row [0b00111001, 0b00110100, 0b10010010] (.andAbsY 0x9234) 4 true,
    row [0b00100001, 0b10000001] (.andIndX 0x81) 6 false,
    row [0b00110001, 0b10000001] (.andIndY 0x81) 5 true,
    row [0b00001001, 0b10000001] (.oraImm 0x81) 2 false,
    row [0b00000101, 0b10000001] (.oraZp 0x81) 3 false,
    row [0b00010101, 0b10000001] (.oraZpX 0x81) 4 false,
    row [0b00001101, 0b00110100, 0b10010010] (.oraAbs 0x9234) 4 false,
    row [0b00011101, 0b00110100, 0b10010010] (.oraAbsX 0x9234) 4 true,
    row [0b00011001, 0b00110100, 0b10010010] (.oraAbsY 0x9234) 4 true,
    row [0b00000001, 0b10000001] (.oraIndX 0x81) 6 false,
    row [0b00010001, 0b10000001] (.oraIndY 0x81) 5 true,
    row [0b01001001, 0b10000001] (.eorImm 0x81) 2 false,
    row [0b01000101, 0b10000001] (.eorZp 0x81) 3 false,
    row [0b01010101, 0b10000001] (.eorZpX 0x81) 4 false,
    row [0b01001101, 0b00110100, 0b10010010] (.eorAbs 0x9234) 4 false,
    row [0b01011101, 0b00110100, 0b10010010] (.eorAbsX 0x9234) 4 true,
    row [0b01011001, 0b00110100, 0b10010010] (.eorAbsY 0x9234) 4 true,
    row [0b01000001, 0b10000001] (.eorIndX 0x81) 6 false,
    row [0b01010001, 0b10000001] (.eorIndY 0x81) 5 true] : List Bool).all id = true := by decide

/-- Compare and bit test: 46_compare_bit.md. -/
theorem test_decode_compareBit : ([row [0b11001001, 0b10000001] (.cmpImm 0x81) 2 false,
    row [0b11000101, 0b10000001] (.cmpZp 0x81) 3 false,
    row [0b11010101, 0b10000001] (.cmpZpX 0x81) 4 false,
    row [0b11001101, 0b00110100, 0b10010010] (.cmpAbs 0x9234) 4 false,
    row [0b11011101, 0b00110100, 0b10010010] (.cmpAbsX 0x9234) 4 true,
    row [0b11011001, 0b00110100, 0b10010010] (.cmpAbsY 0x9234) 4 true,
    row [0b11000001, 0b10000001] (.cmpIndX 0x81) 6 false,
    row [0b11010001, 0b10000001] (.cmpIndY 0x81) 5 true,
    row [0b11100000, 0b10000001] (.cpxImm 0x81) 2 false,
    row [0b11100100, 0b10000001] (.cpxZp 0x81) 3 false,
    row [0b11101100, 0b00110100, 0b10010010] (.cpxAbs 0x9234) 4 false,
    row [0b11000000, 0b10000001] (.cpyImm 0x81) 2 false,
    row [0b11000100, 0b10000001] (.cpyZp 0x81) 3 false,
    row [0b11001100, 0b00110100, 0b10010010] (.cpyAbs 0x9234) 4 false,
    row [0b00100100, 0b10000001] (.bitZp 0x81) 3 false,
    row [0b00101100, 0b00110100, 0b10010010] (.bitAbs 0x9234) 4 false] : List Bool).all id = true := by decide

/-- Conditional branches: 47_branches.md. -/
theorem test_decode_branches : ([row [0b10010000, 0b10000001] (.bcc 0x81) 2 false,
    row [0b10110000, 0b10000001] (.bcs 0x81) 2 false,
    row [0b11110000, 0b10000001] (.beq 0x81) 2 false,
    row [0b00110000, 0b10000001] (.bmi 0x81) 2 false,
    row [0b11010000, 0b10000001] (.bne 0x81) 2 false,
    row [0b00010000, 0b10000001] (.bpl 0x81) 2 false,
    row [0b01010000, 0b10000001] (.bvc 0x81) 2 false,
    row [0b01110000, 0b10000001] (.bvs 0x81) 2 false] : List Bool).all id = true := by decide

/-- Status-flag control: 48_flag_control.md. -/
theorem test_decode_flagControl : ([row [0b00011000] .clc 2 false,
    row [0b11011000] .cld 2 false,
    row [0b01011000] .cli 2 false,
    row [0b10111000] .clv 2 false,
    row [0b00111000] .sec 2 false,
    row [0b11111000] .sed 2 false,
    row [0b01111000] .sei 2 false] : List Bool).all id = true := by decide

/-- Jumps, subroutines, stack, software interrupt, no-op: 49_jumps_stack.md. -/
theorem test_decode_jumpsStack : ([row [0b01001100, 0b00110100, 0b10010010] (.jmpAbs 0x9234) 3 false,
    row [0b01101100, 0b00110100, 0b10010010] (.jmpInd 0x9234) 5 false,
    row [0b00100000, 0b00110100, 0b10010010] (.jsrAbs 0x9234) 6 false,
    row [0b01100000] .rts 6 false,
    row [0b00000000] .brk 7 false,
    row [0b01000000] .rti 6 false,
    row [0b00001000] .php 3 false,
    row [0b01001000] .pha 3 false,
    row [0b00101000] .plp 4 false,
    row [0b01101000] .pla 4 false,
    row [0b11101010] .nop 2 false] : List Bool).all id = true := by decide

/-- Truncated and unassigned bytes are refused by name (30_encoding.md R112). -/
theorem test_decode_refuses :
    decode [0x02] = .error (.unassigned 0x02) ∧ decode [0xFF, 0x00, 0x00] = .error (.unassigned 0xFF) ∧
    decode [0xA9] = .error .truncated ∧ decode [0x20, 0x34] = .error .truncated ∧ decode [] = .error .truncated := by decide

/-- The table's numbering: bit 0 is the least significant bit of the first byte; bits from `nbits` up are 0. -/
theorem test_table_word :
    decodeTableWord 24 0x12348D = some (.staAbs 0x1234) ∧ decodeTableWord 8 0xFF4C = some (.jmpAbs 0x0000) ∧
    decodeTableWord 8 0x02 = none := by decide

/-- 105 bytes have no instruction (30_encoding.md R112). -/
theorem test_unassigned_count : unassignedBytes.length = 105 ∧ unassignedBytes.all (fun b => (opcodeMap b).isNone) = true := by decide

/-! ### One step: the vectors of 95_test_vectors.md L2, by their names there -/

/-- V-LS2: LDA # negative (40_loads_stores.md R201). -/
theorem test_ls2 :
    seen (step (mach 0x0600 [0xA9, 0x80] 0x00 0x00 0x00 0x00 0x36 [])) [] =
      some ⟨0x80, 0x00, 0x00, 0x00, 0xB4, 0x0602, some 2, [], []⟩ := by decide

/-- V-LS4: LDA zp,X wraps in zero page (40_loads_stores.md R201). -/
theorem test_ls4 :
    seen (step (mach 0x0600 [0xB5, 0xF0] 0x00 0x20 0x00 0x00 0x34 [(0x0010, 0x11), (0x0110, 0x99)])) [] =
      some ⟨0x11, 0x20, 0x00, 0x00, 0x34, 0x0602, some 4, [], []⟩ := by decide

/-- V-LS6: LDA abs,X page cross (+1 cycle) (40_loads_stores.md R201). -/
theorem test_ls6 :
    seen (step (mach 0x0600 [0xBD, 0xFF, 0x20] 0x00 0x01 0x00 0x00 0x34 [(0x2100, 0x42)])) [] =
      some ⟨0x42, 0x01, 0x00, 0x00, 0x34, 0x0603, some 5, [], []⟩ := by decide

/-- V-LS7: LDA abs,Y wraps past 0xFFFF (40_loads_stores.md R201). -/
theorem test_ls7 :
    seen (step (mach 0x0600 [0xB9, 0xFF, 0xFF] 0x00 0x00 0x02 0x00 0x34 [(0x0001, 0x33)])) [] =
      some ⟨0x33, 0x00, 0x02, 0x00, 0x34, 0x0603, some 5, [], []⟩ := by decide

/-- V-LS8: LDA (zp,X) pointer wraps in zero page (40_loads_stores.md R201). -/
theorem test_ls8 :
    seen (step (mach 0x0600 [0xA1, 0xFE] 0x00 0x01 0x00 0x00 0x34 [(0x0000, 0x12), (0x00FF, 0x34), (0x1234, 0xC0)])) [] =
      some ⟨0xC0, 0x01, 0x00, 0x00, 0xB4, 0x0602, some 6, [], []⟩ := by decide

/-- V-LS10: LDA (zp),Y no cross (40_loads_stores.md R201). -/
theorem test_ls10 :
    seen (step (mach 0x0600 [0xB1, 0x40] 0x00 0x00 0x04 0x00 0x34 [(0x0040, 0x00), (0x0041, 0x30), (0x3004, 0x01)])) [] =
      some ⟨0x01, 0x00, 0x04, 0x00, 0x34, 0x0602, some 5, [], []⟩ := by decide

/-- V-LS11: LDA (zp),Y page cross (+1 cycle) (40_loads_stores.md R201). -/
theorem test_ls11 :
    seen (step (mach 0x0600 [0xB1, 0x40] 0x00 0x00 0x01 0x00 0x34 [(0x0040, 0xFF), (0x0041, 0x30), (0x3100, 0xFE)])) [] =
      some ⟨0xFE, 0x00, 0x01, 0x00, 0xB4, 0x0602, some 6, [], []⟩ := by decide

/-- V-LS12: LDA (zp),Y pointer at 0xFF wraps (D17) (40_loads_stores.md R201). -/
theorem test_ls12 :
    seen (step (mach 0x0600 [0xB1, 0xFF] 0x00 0x00 0x00 0x00 0x34 [(0x0000, 0x30), (0x00FF, 0x00), (0x0100, 0x40), (0x3000, 0x77)])) [] =
      some ⟨0x77, 0x00, 0x00, 0x00, 0x34, 0x0602, some 5, [], []⟩ := by decide

/-- V-LS13: LDX # flags from X, not A (40_loads_stores.md R202). -/
theorem test_ls13 :
    seen (step (mach 0x0600 [0xA2, 0x00] 0x80 0x00 0x00 0x00 0xB4 [])) [] =
      some ⟨0x80, 0x00, 0x00, 0x00, 0x36, 0x0602, some 2, [], []⟩ := by decide

/-- V-LS14: LDX zp,Y wraps (40_loads_stores.md R202). -/
theorem test_ls14 :
    seen (step (mach 0x0600 [0xB6, 0xFF] 0x00 0x00 0x02 0x00 0x34 [(0x0001, 0x81)])) [] =
      some ⟨0x00, 0x81, 0x02, 0x00, 0xB4, 0x0602, some 4, [], []⟩ := by decide

/-- V-LS15: LDY abs,X (40_loads_stores.md R203). -/
theorem test_ls15 :
    seen (step (mach 0x0600 [0xBC, 0x00, 0x30] 0x00 0x10 0x00 0x00 0x34 [(0x3010, 0x00)])) [] =
      some ⟨0x00, 0x10, 0x00, 0x00, 0x36, 0x0603, some 4, [], []⟩ := by decide

/-- V-LS16: STA abs,X page cross (no extra cycle) (40_loads_stores.md R204). -/
theorem test_ls16 :
    seen (step (mach 0x0600 [0x9D, 0xFF, 0x20] 0x99 0x01 0x00 0x00 0x34 [])) [0x2100] =
      some ⟨0x99, 0x01, 0x00, 0x00, 0x34, 0x0603, some 5, [], [0x99]⟩ := by decide

/-- V-LS17: STA (zp),Y (40_loads_stores.md R204). -/
theorem test_ls17 :
    seen (step (mach 0x0600 [0x91, 0x40] 0x5A 0x00 0x03 0x00 0x34 [(0x0040, 0x00), (0x0041, 0x02)])) [0x0203] =
      some ⟨0x5A, 0x00, 0x03, 0x00, 0x34, 0x0602, some 6, [], [0x5A]⟩ := by decide

/-- V-LS18: STA writes no flag (40_loads_stores.md R204). -/
theorem test_ls18 :
    seen (step (mach 0x0600 [0x85, 0x20] 0x00 0x00 0x00 0x00 0xB4 [])) [0x0020] =
      some ⟨0x00, 0x00, 0x00, 0x00, 0xB4, 0x0602, some 3, [], [0x00]⟩ := by decide

/-- V-LS19: STX zp,Y wraps (40_loads_stores.md R205). -/
theorem test_ls19 :
    seen (step (mach 0x0600 [0x96, 0xFF] 0x00 0x77 0x01 0x00 0x34 [])) [0x0000] =
      some ⟨0x00, 0x77, 0x01, 0x00, 0x34, 0x0602, some 4, [], [0x77]⟩ := by decide

/-- V-LS20: STY abs (40_loads_stores.md R206). -/
theorem test_ls20 :
    seen (step (mach 0x0600 [0x8C, 0x34, 0x12] 0x00 0x00 0xFF 0x00 0x34 [])) [0x1234] =
      some ⟨0x00, 0x00, 0xFF, 0x00, 0x34, 0x0603, some 4, [], [0xFF]⟩ := by decide

/-- V-TR1: TAX zero (41_transfers.md R221). -/
theorem test_tr1 :
    seen (step (mach 0x0600 [0xAA] 0x00 0x55 0x00 0x00 0x34 [])) [] =
      some ⟨0x00, 0x00, 0x00, 0x00, 0x36, 0x0601, some 2, [], []⟩ := by decide

/-- V-TR2: TAY negative (41_transfers.md R222). -/
theorem test_tr2 :
    seen (step (mach 0x0600 [0xA8] 0x90 0x00 0x00 0x00 0x34 [])) [] =
      some ⟨0x90, 0x00, 0x90, 0x00, 0xB4, 0x0601, some 2, [], []⟩ := by decide

/-- V-TR3: TSX (41_transfers.md R223). -/
theorem test_tr3 :
    seen (step (mach 0x0600 [0xBA] 0x00 0x00 0x00 0x80 0x34 [])) [] =
      some ⟨0x00, 0x80, 0x00, 0x80, 0xB4, 0x0601, some 2, [], []⟩ := by decide

/-- V-TR4: TXA (41_transfers.md R224). -/
theorem test_tr4 :
    seen (step (mach 0x0600 [0x8A] 0x12 0x00 0x00 0x00 0x34 [])) [] =
      some ⟨0x00, 0x00, 0x00, 0x00, 0x36, 0x0601, some 2, [], []⟩ := by decide

/-- V-TR5: TXS writes no flag (41_transfers.md R225). -/
theorem test_tr5 :
    seen (step (mach 0x0600 [0x9A] 0x00 0x00 0x00 0x00 0x34 [])) [] =
      some ⟨0x00, 0x00, 0x00, 0x00, 0x34, 0x0601, some 2, [], []⟩ := by decide

/-- V-TR6: TYA (41_transfers.md R226). -/
theorem test_tr6 :
    seen (step (mach 0x0600 [0x98] 0x00 0x00 0xFF 0x00 0x34 [])) [] =
      some ⟨0xFF, 0x00, 0xFF, 0x00, 0xB4, 0x0601, some 2, [], []⟩ := by decide

/-- V-AR2: ADC # signed overflow 0x7F+0x01 (42_arithmetic.md R241). -/
theorem test_ar2 :
    seen (step (mach 0x0600 [0x69, 0x01] 0x7F 0x00 0x00 0x00 0x34 [])) [] =
      some ⟨0x80, 0x00, 0x00, 0x00, 0xF4, 0x0602, some 2, [], []⟩ := by decide

/-- V-AR4: ADC # 0x80+0x80 overflow and carry (42_arithmetic.md R241). -/
theorem test_ar4 :
    seen (step (mach 0x0600 [0x69, 0x80] 0x80 0x00 0x00 0x00 0x34 [])) [] =
      some ⟨0x00, 0x00, 0x00, 0x00, 0x77, 0x0602, some 2, [], []⟩ := by decide

/-- V-AR5: ADC decimal 0x58+0x46 (42_arithmetic.md R241). -/
theorem test_ar5 :
    seen (step (mach 0x0600 [0x69, 0x46] 0x58 0x00 0x00 0x00 0x3C [])) [] =
      some ⟨0x04, 0x00, 0x00, 0x00, 0x3D, 0x0602, some 2, [], []⟩ := by decide

/-- V-AR6: ADC decimal 0x99+0x01 (C=1, Z=1) (42_arithmetic.md R241). -/
theorem test_ar6 :
    seen (step (mach 0x0600 [0x69, 0x01] 0x99 0x00 0x00 0x00 0x3C [])) [] =
      some ⟨0x00, 0x00, 0x00, 0x00, 0x3F, 0x0602, some 2, [], []⟩ := by decide

/-- V-AR8: ADC decimal invalid digit 0x0F clamps to 9 (42_arithmetic.md R244). -/
theorem test_ar8 :
    seen (step (mach 0x0600 [0x69, 0x01] 0x0F 0x00 0x00 0x00 0x3C [])) [] =
      some ⟨0x10, 0x00, 0x00, 0x00, 0x3C, 0x0602, some 2, [], []⟩ := by decide

/-- V-AR10: SBC # 0x03-0x05 borrow (42_arithmetic.md R242). -/
theorem test_ar10 :
    seen (step (mach 0x0600 [0xE9, 0x05] 0x03 0x00 0x00 0x00 0x35 [])) [] =
      some ⟨0xFE, 0x00, 0x00, 0x00, 0xB4, 0x0602, some 2, [], []⟩ := by decide

/-- V-AR12: SBC # signed overflow 0x80-0x01 (42_arithmetic.md R242). -/
theorem test_ar12 :
    seen (step (mach 0x0600 [0xE9, 0x01] 0x80 0x00 0x00 0x00 0x35 [])) [] =
      some ⟨0x7F, 0x00, 0x00, 0x00, 0x75, 0x0602, some 2, [], []⟩ := by decide

/-- V-AR14: SBC decimal 0x12-0x21 borrow (42_arithmetic.md R242). -/
theorem test_ar14 :
    seen (step (mach 0x0600 [0xE9, 0x21] 0x12 0x00 0x00 0x00 0x3D [])) [] =
      some ⟨0x91, 0x00, 0x00, 0x00, 0xBC, 0x0602, some 2, [], []⟩ := by decide

/-- V-AR15: SBC decimal 0x00-0x00 borrow in (42_arithmetic.md R242). -/
theorem test_ar15 :
    seen (step (mach 0x0600 [0xE9, 0x00] 0x00 0x00 0x00 0x00 0x3C [])) [] =
      some ⟨0x99, 0x00, 0x00, 0x00, 0xBC, 0x0602, some 2, [], []⟩ := by decide

/-- V-ID1: INC zp 0xFF wraps to 0 (43_incdec.md R261). -/
theorem test_id1 :
    seen (step (mach 0x0600 [0xE6, 0x10] 0x00 0x00 0x00 0x00 0x34 [(0x0010, 0xFF)])) [0x0010] =
      some ⟨0x00, 0x00, 0x00, 0x00, 0x36, 0x0602, some 5, [], [0x00]⟩ := by decide

/-- V-ID2: INC abs,X (43_incdec.md R261). -/
theorem test_id2 :
    seen (step (mach 0x0600 [0xFE, 0x00, 0x20] 0x00 0x01 0x00 0x00 0x34 [(0x2001, 0x7F)])) [0x2001] =
      some ⟨0x00, 0x01, 0x00, 0x00, 0xB4, 0x0603, some 7, [], [0x80]⟩ := by decide

/-- V-ID3: DEC zp 0x00 wraps to 0xFF (43_incdec.md R262). -/
theorem test_id3 :
    seen (step (mach 0x0600 [0xC6, 0x10] 0x00 0x00 0x00 0x00 0x34 [(0x0010, 0x00)])) [0x0010] =
      some ⟨0x00, 0x00, 0x00, 0x00, 0xB4, 0x0602, some 5, [], [0xFF]⟩ := by decide

/-- V-ID4: DEC zp,X to zero (43_incdec.md R262). -/
theorem test_id4 :
    seen (step (mach 0x0600 [0xD6, 0xFF] 0x00 0x01 0x00 0x00 0x34 [(0x0000, 0x01)])) [0x0000] =
      some ⟨0x00, 0x01, 0x00, 0x00, 0x36, 0x0602, some 6, [], [0x00]⟩ := by decide

/-- V-ID5: INX 0xFF (43_incdec.md R263). -/
theorem test_id5 :
    seen (step (mach 0x0600 [0xE8] 0x00 0xFF 0x00 0x00 0x34 [])) [] =
      some ⟨0x00, 0x00, 0x00, 0x00, 0x36, 0x0601, some 2, [], []⟩ := by decide

/-- V-ID6: INY 0x7F (43_incdec.md R264). -/
theorem test_id6 :
    seen (step (mach 0x0600 [0xC8] 0x00 0x00 0x7F 0x00 0x34 [])) [] =
      some ⟨0x00, 0x00, 0x80, 0x00, 0xB4, 0x0601, some 2, [], []⟩ := by decide

/-- V-ID7: DEX 0x00 (43_incdec.md R265). -/
theorem test_id7 :
    seen (step (mach 0x0600 [0xCA] 0x00 0x00 0x00 0x00 0x34 [])) [] =
      some ⟨0x00, 0xFF, 0x00, 0x00, 0xB4, 0x0601, some 2, [], []⟩ := by decide

/-- V-ID8: DEY 0x01 (43_incdec.md R266). -/
theorem test_id8 :
    seen (step (mach 0x0600 [0x88] 0x00 0x00 0x01 0x00 0x34 [])) [] =
      some ⟨0x00, 0x00, 0x00, 0x00, 0x36, 0x0601, some 2, [], []⟩ := by decide

/-- V-SH1: ASL A 0x81 (44_shifts.md R281). -/
theorem test_sh1 :
    seen (step (mach 0x0600 [0x0A] 0x81 0x00 0x00 0x00 0x34 [])) [] =
      some ⟨0x02, 0x00, 0x00, 0x00, 0x35, 0x0601, some 2, [], []⟩ := by decide

/-- V-SH2: ASL zp 0x40 (44_shifts.md R281). -/
theorem test_sh2 :
    seen (step (mach 0x0600 [0x06, 0x10] 0x00 0x00 0x00 0x00 0x35 [(0x0010, 0x40)])) [0x0010] =
      some ⟨0x00, 0x00, 0x00, 0x00, 0xB4, 0x0602, some 5, [], [0x80]⟩ := by decide

/-- V-SH3: LSR A 0x01 (44_shifts.md R282). -/
theorem test_sh3 :
    seen (step (mach 0x0600 [0x4A] 0x01 0x00 0x00 0x00 0xB4 [])) [] =
      some ⟨0x00, 0x00, 0x00, 0x00, 0x37, 0x0601, some 2, [], []⟩ := by decide

/-- V-SH4: LSR abs 0xFF (44_shifts.md R282). -/
theorem test_sh4 :
    seen (step (mach 0x0600 [0x4E, 0x00, 0x30] 0x00 0x00 0x00 0x00 0x34 [(0x3000, 0xFF)])) [0x3000] =
      some ⟨0x00, 0x00, 0x00, 0x00, 0x35, 0x0603, some 6, [], [0x7F]⟩ := by decide

/-- V-SH5: ROL A with C=1 (44_shifts.md R283). -/
theorem test_sh5 :
    seen (step (mach 0x0600 [0x2A] 0x80 0x00 0x00 0x00 0x35 [])) [] =
      some ⟨0x01, 0x00, 0x00, 0x00, 0x35, 0x0601, some 2, [], []⟩ := by decide

/-- V-SH6: ROL zp,X with C=0 (44_shifts.md R283). -/
theorem test_sh6 :
    seen (step (mach 0x0600 [0x36, 0x10] 0x00 0x01 0x00 0x00 0x34 [(0x0011, 0x55)])) [0x0011] =
      some ⟨0x00, 0x01, 0x00, 0x00, 0xB4, 0x0602, some 6, [], [0xAA]⟩ := by decide

/-- V-SH7: ROR A with C=1 (44_shifts.md R284). -/
theorem test_sh7 :
    seen (step (mach 0x0600 [0x6A] 0x01 0x00 0x00 0x00 0x35 [])) [] =
      some ⟨0x80, 0x00, 0x00, 0x00, 0xB5, 0x0601, some 2, [], []⟩ := by decide

/-- V-SH8: ROR abs,X with C=0 (44_shifts.md R284). -/
theorem test_sh8 :
    seen (step (mach 0x0600 [0x7E, 0x00, 0x30] 0x00 0x02 0x00 0x00 0x34 [(0x3002, 0x02)])) [0x3002] =
      some ⟨0x00, 0x02, 0x00, 0x00, 0x34, 0x0603, some 7, [], [0x01]⟩ := by decide

/-- V-LG1: AND # to zero (45_logical.md R301). -/
theorem test_lg1 :
    seen (step (mach 0x0600 [0x29, 0x0F] 0xF0 0x00 0x00 0x00 0x34 [])) [] =
      some ⟨0x00, 0x00, 0x00, 0x00, 0x36, 0x0602, some 2, [], []⟩ := by decide

/-- V-LG2: AND (zp,X) (45_logical.md R301). -/
theorem test_lg2 :
    seen (step (mach 0x0600 [0x21, 0x20] 0xFF 0x02 0x00 0x00 0x34 [(0x0022, 0x00), (0x0023, 0x40), (0x4000, 0x81)])) [] =
      some ⟨0x81, 0x02, 0x00, 0x00, 0xB4, 0x0602, some 6, [], []⟩ := by decide

/-- V-LG3: ORA # negative (45_logical.md R302). -/
theorem test_lg3 :
    seen (step (mach 0x0600 [0x09, 0x80] 0x01 0x00 0x00 0x00 0x34 [])) [] =
      some ⟨0x81, 0x00, 0x00, 0x00, 0xB4, 0x0602, some 2, [], []⟩ := by decide

/-- V-LG4: ORA abs,Y cross (45_logical.md R302). -/
theorem test_lg4 :
    seen (step (mach 0x0600 [0x19, 0xF0, 0x30] 0x00 0x00 0x10 0x00 0x34 [(0x3100, 0x00)])) [] =
      some ⟨0x00, 0x00, 0x10, 0x00, 0x36, 0x0603, some 5, [], []⟩ := by decide

/-- V-LG5: EOR # self to zero (45_logical.md R303). -/
theorem test_lg5 :
    seen (step (mach 0x0600 [0x49, 0xAA] 0xAA 0x00 0x00 0x00 0x34 [])) [] =
      some ⟨0x00, 0x00, 0x00, 0x00, 0x36, 0x0602, some 2, [], []⟩ := by decide

/-- V-LG6: EOR zp (45_logical.md R303). -/
theorem test_lg6 :
    seen (step (mach 0x0600 [0x45, 0x10] 0x0F 0x00 0x00 0x00 0x34 [(0x0010, 0xFF)])) [] =
      some ⟨0xF0, 0x00, 0x00, 0x00, 0xB4, 0x0602, some 3, [], []⟩ := by decide

/-- V-CB2: CMP # less (unsigned) (46_compare_bit.md R321). -/
theorem test_cb2 :
    seen (step (mach 0x0600 [0xC9, 0x41] 0x40 0x00 0x00 0x00 0x34 [])) [] =
      some ⟨0x40, 0x00, 0x00, 0x00, 0xB4, 0x0602, some 2, [], []⟩ := by decide

/-- V-CB3: CMP # greater, N from difference (46_compare_bit.md R321). -/
theorem test_cb3 :
    seen (step (mach 0x0600 [0xC9, 0x01] 0xFF 0x00 0x00 0x00 0x34 [])) [] =
      some ⟨0xFF, 0x00, 0x00, 0x00, 0xB5, 0x0602, some 2, [], []⟩ := by decide

/-- V-CB5: CPX zp (46_compare_bit.md R322). -/
theorem test_cb5 :
    seen (step (mach 0x0600 [0xE4, 0x10] 0x00 0x05 0x00 0x00 0x34 [(0x0010, 0x05)])) [] =
      some ⟨0x00, 0x05, 0x00, 0x00, 0x37, 0x0602, some 3, [], []⟩ := by decide

/-- V-CB6: CPX # less (46_compare_bit.md R322). -/
theorem test_cb6 :
    seen (step (mach 0x0600 [0xE0, 0x10] 0x00 0x0F 0x00 0x00 0x34 [])) [] =
      some ⟨0x00, 0x0F, 0x00, 0x00, 0xB4, 0x0602, some 2, [], []⟩ := by decide

/-- V-CB7: CPY abs greater (46_compare_bit.md R323). -/
theorem test_cb7 :
    seen (step (mach 0x0600 [0xCC, 0x00, 0x30] 0x00 0x00 0x02 0x00 0x34 [(0x3000, 0x01)])) [] =
      some ⟨0x00, 0x00, 0x02, 0x00, 0x35, 0x0603, some 4, [], []⟩ := by decide

/-- V-CB8: BIT zp N,V from memory, Z from AND (46_compare_bit.md R324). -/
theorem test_cb8 :
    seen (step (mach 0x0600 [0x24, 0x10] 0x3F 0x00 0x00 0x00 0x34 [(0x0010, 0xC0)])) [] =
      some ⟨0x3F, 0x00, 0x00, 0x00, 0xF6, 0x0602, some 3, [], []⟩ := by decide

/-- V-CB9: BIT abs nonzero AND (46_compare_bit.md R324). -/
theorem test_cb9 :
    seen (step (mach 0x0600 [0x2C, 0x00, 0x30] 0x01 0x00 0x00 0x00 0xF6 [(0x3000, 0x01)])) [] =
      some ⟨0x01, 0x00, 0x00, 0x00, 0x34, 0x0603, some 4, [], []⟩ := by decide

/-- V-BR1: BCC taken, same page (3 cycles) (47_branches.md R341). -/
theorem test_br1 :
    seen (step (mach 0x0600 [0x90, 0x10] 0x00 0x00 0x00 0x00 0x34 [])) [] =
      some ⟨0x00, 0x00, 0x00, 0x00, 0x34, 0x0612, some 3, [], []⟩ := by decide

/-- V-BR2: BCC not taken (2 cycles) (47_branches.md R341). -/
theorem test_br2 :
    seen (step (mach 0x0600 [0x90, 0x10] 0x00 0x00 0x00 0x00 0x35 [])) [] =
      some ⟨0x00, 0x00, 0x00, 0x00, 0x35, 0x0602, some 2, [], []⟩ := by decide

/-- V-BR3: BEQ taken, page cross (4 cycles) (47_branches.md R343). -/
theorem test_br3 :
    seen (step (mach 0x80F0 [0xF0, 0x20] 0x00 0x00 0x00 0x00 0x36 [])) [] =
      some ⟨0x00, 0x00, 0x00, 0x00, 0x36, 0x8112, some 4, [], []⟩ := by decide

/-- V-BR4: BEQ taken, wraps past 0xFFFF (47_branches.md R343). -/
theorem test_br4 :
    seen (step (mach 0xFFF0 [0xF0, 0x20] 0x00 0x00 0x00 0x00 0x36 [])) [] =
      some ⟨0x00, 0x00, 0x00, 0x00, 0x36, 0x0012, some 4, [], []⟩ := by decide

/-- V-BR5: BMI taken, -128 (47_branches.md R344). -/
theorem test_br5 :
    seen (step (mach 0x8100 [0x30, 0x80] 0x00 0x00 0x00 0x00 0xB4 [])) [] =
      some ⟨0x00, 0x00, 0x00, 0x00, 0xB4, 0x8082, some 4, [], []⟩ := by decide

/-- V-BR6: BNE taken backwards (47_branches.md R345). -/
theorem test_br6 :
    seen (step (mach 0x8008 [0xD0, 0xFB] 0x00 0x00 0x00 0x00 0x34 [])) [] =
      some ⟨0x00, 0x00, 0x00, 0x00, 0x34, 0x8005, some 3, [], []⟩ := by decide

/-- V-BR7: BNE taken at 0x0000 wraps down (47_branches.md R345). -/
theorem test_br7 :
    seen (step (mach 0x0000 [0xD0, 0xFD] 0x00 0x00 0x00 0x00 0x34 [])) [] =
      some ⟨0x00, 0x00, 0x00, 0x00, 0x34, 0xFFFF, some 4, [], []⟩ := by decide

/-- V-BR8: BPL offset 0 taken (47_branches.md R346). -/
theorem test_br8 :
    seen (step (mach 0x0600 [0x10, 0x00] 0x00 0x00 0x00 0x00 0x34 [])) [] =
      some ⟨0x00, 0x00, 0x00, 0x00, 0x34, 0x0602, some 3, [], []⟩ := by decide

/-- V-BR9: BVC not taken (47_branches.md R347). -/
theorem test_br9 :
    seen (step (mach 0x0600 [0x50, 0x04] 0x00 0x00 0x00 0x00 0x74 [])) [] =
      some ⟨0x00, 0x00, 0x00, 0x00, 0x74, 0x0602, some 2, [], []⟩ := by decide

/-- V-BR10: BVS taken (47_branches.md R348). -/
theorem test_br10 :
    seen (step (mach 0x0600 [0x70, 0x04] 0x00 0x00 0x00 0x00 0x74 [])) [] =
      some ⟨0x00, 0x00, 0x00, 0x00, 0x74, 0x0606, some 3, [], []⟩ := by decide

/-- V-BR11: BCS taken to itself (47_branches.md R342). -/
theorem test_br11 :
    seen (step (mach 0x0600 [0xB0, 0xFE] 0x00 0x00 0x00 0x00 0x35 [])) [] =
      some ⟨0x00, 0x00, 0x00, 0x00, 0x35, 0x0600, some 3, [], []⟩ := by decide

/-- V-FL1: CLC (48_flag_control.md R361). -/
theorem test_fl1 :
    seen (step (mach 0x0600 [0x18] 0x00 0x00 0x00 0x00 0x35 [])) [] =
      some ⟨0x00, 0x00, 0x00, 0x00, 0x34, 0x0601, some 2, [], []⟩ := by decide

/-- V-FL2: CLD (48_flag_control.md R362). -/
theorem test_fl2 :
    seen (step (mach 0x0600 [0xD8] 0x00 0x00 0x00 0x00 0x3C [])) [] =
      some ⟨0x00, 0x00, 0x00, 0x00, 0x34, 0x0601, some 2, [], []⟩ := by decide

/-- V-FL3: CLI (48_flag_control.md R363). -/
theorem test_fl3 :
    seen (step (mach 0x0600 [0x58] 0x00 0x00 0x00 0x00 0x34 [])) [] =
      some ⟨0x00, 0x00, 0x00, 0x00, 0x30, 0x0601, some 2, [], []⟩ := by decide

/-- V-FL4: CLV (48_flag_control.md R364). -/
theorem test_fl4 :
    seen (step (mach 0x0600 [0xB8] 0x00 0x00 0x00 0x00 0x74 [])) [] =
      some ⟨0x00, 0x00, 0x00, 0x00, 0x34, 0x0601, some 2, [], []⟩ := by decide

/-- V-FL5: SEC (48_flag_control.md R365). -/
theorem test_fl5 :
    seen (step (mach 0x0600 [0x38] 0x00 0x00 0x00 0x00 0x34 [])) [] =
      some ⟨0x00, 0x00, 0x00, 0x00, 0x35, 0x0601, some 2, [], []⟩ := by decide

/-- V-FL6: SED (48_flag_control.md R366). -/
theorem test_fl6 :
    seen (step (mach 0x0600 [0xF8] 0x00 0x00 0x00 0x00 0x34 [])) [] =
      some ⟨0x00, 0x00, 0x00, 0x00, 0x3C, 0x0601, some 2, [], []⟩ := by decide

/-- V-FL7: SEI (48_flag_control.md R367). -/
theorem test_fl7 :
    seen (step (mach 0x0600 [0x78] 0x00 0x00 0x00 0x00 0x30 [])) [] =
      some ⟨0x00, 0x00, 0x00, 0x00, 0x34, 0x0601, some 2, [], []⟩ := by decide

/-- V-JS1: JMP abs (49_jumps_stack.md R380). -/
theorem test_js1 :
    seen (step (mach 0x0600 [0x4C, 0x34, 0x12] 0x00 0x00 0x00 0x00 0x34 [])) [] =
      some ⟨0x00, 0x00, 0x00, 0x00, 0x34, 0x1234, some 3, [], []⟩ := by decide

/-- V-JS2: JMP ($02FF) page bug (49_jumps_stack.md R380). -/
theorem test_js2 :
    seen (step (mach 0x0600 [0x6C, 0xFF, 0x02] 0x00 0x00 0x00 0x00 0x34 [(0x0200, 0x90), (0x02FF, 0x20), (0x0300, 0x55)])) [] =
      some ⟨0x00, 0x00, 0x00, 0x00, 0x34, 0x9020, some 5, [], []⟩ := by decide

/-- V-JS3: JMP ($1234) normal (49_jumps_stack.md R380). -/
theorem test_js3 :
    seen (step (mach 0x0600 [0x6C, 0x34, 0x12] 0x00 0x00 0x00 0x00 0x34 [(0x1234, 0x00), (0x1235, 0x80)])) [] =
      some ⟨0x00, 0x00, 0x00, 0x00, 0x34, 0x8000, some 5, [], []⟩ := by decide

/-- V-JS4: JSR (49_jumps_stack.md R381). -/
theorem test_js4 :
    seen (step (mach 0x8005 [0x20, 0x10, 0x80] 0x00 0x00 0x00 0x00 0x34 [])) [0x0100, 0x0101] =
      some ⟨0x00, 0x00, 0x00, 0x02, 0x34, 0x8010, some 6, [], [0x80, 0x07]⟩ := by decide

/-- V-JS5: JSR with SP=0xFF (overflow) (49_jumps_stack.md R381). -/
theorem test_js5 :
    seen (step (mach 0x8000 [0x20, 0x00, 0x90] 0x00 0x00 0x00 0xFF 0x34 [])) [0x0100, 0x01FF] =
      some ⟨0x00, 0x00, 0x00, 0x01, 0x34, 0x9000, some 6, [.stackOverflow], [0x02, 0x80]⟩ := by decide

/-- V-JS6: RTS (49_jumps_stack.md R382). -/
theorem test_js6 :
    seen (step (mach 0x0600 [0x60] 0x00 0x00 0x00 0x02 0x34 [(0x0100, 0x80), (0x0101, 0x07)])) [] =
      some ⟨0x00, 0x00, 0x00, 0x00, 0x34, 0x8008, some 6, [], []⟩ := by decide

/-- V-JS7: RTS with empty stack (underflow) (49_jumps_stack.md R382). -/
theorem test_js7 :
    seen (step (mach 0x0600 [0x60] 0x00 0x00 0x00 0x00 0x34 [(0x01FE, 0x34), (0x01FF, 0x12)])) [] =
      some ⟨0x00, 0x00, 0x00, 0xFE, 0x34, 0x3413, some 6, [.stackUnderflow], []⟩ := by decide

/-- V-JS8: BRK (49_jumps_stack.md R384). -/
theorem test_js8 :
    seen (step (mach 0x8001 [0x00] 0x00 0x00 0x00 0x00 0x21 [(0xFFFE, 0x00), (0xFFFF, 0x90)])) [0x0100, 0x0101, 0x0102] =
      some ⟨0x00, 0x00, 0x00, 0x03, 0x25, 0x9000, some 7, [], [0x80, 0x02, 0x31]⟩ := by decide

/-- V-JS9: RTI (49_jumps_stack.md R385). -/
theorem test_js9 :
    seen (step (mach 0x0600 [0x40] 0x00 0x00 0x00 0x03 0x34 [(0x0100, 0x80), (0x0101, 0x02), (0x0102, 0x31)])) [] =
      some ⟨0x00, 0x00, 0x00, 0x00, 0x31, 0x8002, some 6, [], []⟩ := by decide

/-- V-JS10: PHP forces bits 4 and 5 (49_jumps_stack.md R386). -/
theorem test_js10 :
    seen (step (mach 0x0600 [0x08] 0x00 0x00 0x00 0x05 0x01 [])) [0x0105] =
      some ⟨0x00, 0x00, 0x00, 0x06, 0x01, 0x0601, some 3, [], [0x31]⟩ := by decide

/-- V-JS11: PHA with SP=0xFF (overflow) (49_jumps_stack.md R387). -/
theorem test_js11 :
    seen (step (mach 0x0600 [0x48] 0x09 0x00 0x00 0xFF 0x34 [])) [0x01FF] =
      some ⟨0x09, 0x00, 0x00, 0x00, 0x34, 0x0601, some 3, [.stackOverflow], [0x09]⟩ := by decide

/-- V-JS12: PLP verbatim (49_jumps_stack.md R388). -/
theorem test_js12 :
    seen (step (mach 0x0600 [0x28] 0x00 0x00 0x00 0x01 0x34 [(0x0100, 0xC3)])) [] =
      some ⟨0x00, 0x00, 0x00, 0x00, 0xC3, 0x0601, some 4, [], []⟩ := by decide

/-- V-JS13: PLA with SP=0 (underflow) (49_jumps_stack.md R389). -/
theorem test_js13 :
    seen (step (mach 0x0600 [0x68] 0x00 0x00 0x00 0x00 0x34 [(0x01FF, 0x80)])) [] =
      some ⟨0x80, 0x00, 0x00, 0xFF, 0xB4, 0x0601, some 4, [.stackUnderflow], []⟩ := by decide

/-- V-JS14: NOP (49_jumps_stack.md R390). -/
theorem test_js14 :
    seen (step (mach 0x0600 [0xEA] 0x00 0x00 0x00 0x00 0x34 [])) [] =
      some ⟨0x00, 0x00, 0x00, 0x00, 0x34, 0x0601, some 2, [], []⟩ := by decide

/-- V-DF1: unassigned 0x02 (30_encoding.md R112). -/
theorem test_df1 : (decodeFaultOf (step (mach 0x0600 [0x02] 0x00 0x00 0x00 0x00 0x34 []))).map
    (fun d => (d.1, d.2.1, seenState d.2.2 [], d.2.2.mem == (mach 0x0600 [0x02] 0x00 0x00 0x00 0x00 0x34 []).mem)) =
      some (0x02, 0x0600, ⟨0x00, 0x00, 0x00, 0x00, 0x34, 0x0600, none, [], []⟩, true) := by decide

/-- V-DF2: unassigned 0xFF (30_encoding.md R112). -/
theorem test_df2 : (decodeFaultOf (step (mach 0x0600 [0xFF] 0x12 0x00 0x00 0x00 0x34 []))).map
    (fun d => (d.1, d.2.1, seenState d.2.2 [], d.2.2.mem == (mach 0x0600 [0xFF] 0x12 0x00 0x00 0x00 0x34 []).mem)) =
      some (0xFF, 0x0600, ⟨0x12, 0x00, 0x00, 0x00, 0x34, 0x0600, none, [], []⟩, true) := by decide

/-- V-DF3: unassigned 0x80 (no immediate NOP) (30_encoding.md R112). -/
theorem test_df3 : (decodeFaultOf (step (mach 0x0600 [0x80, 0x00] 0x00 0x00 0x00 0x00 0x34 []))).map
    (fun d => (d.1, d.2.1, seenState d.2.2 [], d.2.2.mem == (mach 0x0600 [0x80, 0x00] 0x00 0x00 0x00 0x00 0x34 []).mem)) =
      some (0x80, 0x0600, ⟨0x00, 0x00, 0x00, 0x00, 0x34, 0x0600, none, [], []⟩, true) := by decide

/-- V-DF4: unassigned 0x9E (30_encoding.md R112). -/
theorem test_df4 : (decodeFaultOf (step (mach 0x0600 [0x9E, 0x00, 0x20] 0x00 0x01 0x00 0x00 0x34 []))).map
    (fun d => (d.1, d.2.1, seenState d.2.2 [], d.2.2.mem == (mach 0x0600 [0x9E, 0x00, 0x20] 0x00 0x01 0x00 0x00 0x34 []).mem)) =
      some (0x9E, 0x0600, ⟨0x00, 0x01, 0x00, 0x00, 0x34, 0x0600, none, [], []⟩, true) := by decide

/-- The memory of S6. -/
def s6Cells : List (Word × Byte) :=
  [(0x10, 0x00), (0x11, 0x30), (0x12, 0x00), (0x13, 0x40), (0x3002, 0x11), (0x4000, 0x22), (0x3000, 0x33)]

/-- S6: the two indirect modes diverge (95_test_vectors.md L1; 30_encoding.md R120). -/
theorem test_s6_indirect_modes :
    (nextOf (step (mach 0x0600 [0xA1, 0x10] 0 2 2 0 0x34 s6Cells))).map (·.a) = some 0x22 ∧
    (nextOf (step (mach 0x0600 [0xB1, 0x10] 0 2 2 0 0x34 s6Cells))).map (·.a) = some 0x11 := by decide

/-- The binary sums of V-AR1, V-AR3 (42_arithmetic.md R241) and differences of V-AR9, V-AR11 (R242). -/
theorem test_alu_binary :
    adcBinary 0x01 0xFF false = ⟨0x00, true, false⟩ ∧ adcBinary 0xFF 0x00 true = ⟨0x00, true, false⟩ ∧
    sbcBinary 0x05 0x03 true = ⟨0x02, true, false⟩ ∧ sbcBinary 0x00 0x00 false = ⟨0xFF, false, false⟩ := by decide

/-- The decimal sum of V-AR7 (R241), the difference of V-AR13 (R242), and both digits clamped (R244). -/
theorem test_alu_decimal :
    adcDecimal 0x12 0x34 true = ⟨0x47, false, false⟩ ∧ sbcDecimal 0x46 0x12 true = ⟨0x34, true, false⟩ ∧
    (adcDecimal 0xFF 0x00 false).result = 0x99 ∧ decOfByte 0xFA = 99 := by decide

/-- CMP at V-CB1 and V-CB4: equal, and 0x00 against 0x80 (46_compare_bit.md R320, R321). -/
theorem test_compare_flags : compareFlags 0x34 0x40 0x40 = 0x37 ∧ compareFlags 0x34 0x00 0x80 = 0xB4 := by decide

/-- A machine before a reset. -/
def beforeReset : State := mach 0x1111 [] 0x55 0x55 0x55 0x55 0xFF [(0xFFFC, 0x00), (0xFFFD, 0xC0)]

/-- V-RS1 and V-RS2: reset reads the vector, low byte first, and writes nothing (70_reset_and_hazards.md R600, R601). -/
theorem test_rs1_rs2 :
    seen (resetSession Config.resetValues beforeReset) [] = some ⟨0x00, 0x00, 0x00, 0x00, 0x34, 0xC000, none, [], []⟩ ∧
    (nextOf (resetSession Config.resetValues beforeReset)).map (fun t => (t.mem == beforeReset.mem, t.accesses)) =
      some (true, [⟨.read, 0xFFFC, 0x00⟩, ⟨.read, 0xFFFD, 0xC0⟩]) ∧
    (nextOf (resetSession Config.resetValues (mach 0x1111 [] 0 0 0 0 0 [(0xFFFC, 0x34), (0xFFFD, 0x12)]))).map (·.pc) =
      some 0x1234 := by decide

/-- V-BF1: LDA $4000 on a bus whose read of 0x4000 fails (60_exceptions.md R503). -/
theorem test_bf1 :
    busFaultOf (step (onBus (mach 0x0600 [0xAD, 0x00, 0x40] 0 0 0 0 0x34 []) [⟨.read, 0x4000, 7⟩])) =
      some ⟨.read, 0x4000, 7⟩ := by decide

/-- V-BF2: PHA with SP = 0x10 on a bus whose write of 0x0110 fails (60_exceptions.md R503). -/
theorem test_bf2 :
    busFaultOf (step (onBus (mach 0x0600 [0x48] 0 0 0 0x10 0x34 []) [⟨.write, 0x0110, 9⟩])) =
      some ⟨.write, 0x0110, 9⟩ := by decide

/-- A bus that takes a write to read-only memory and ignores it, and one that redirects it to the address it mirrors, both
as the core asked for it (20_memory.md R62, R72). The mirror: 0x0800 to 0x0FFF stands for 0x0000 to 0x07FF. -/
theorem test_write_to_windows :
    seen (step (behindWindows (mach 0x0600 [0x8D, 0x00, 0x80] 0x5A 0 0 0 0x34 [(0x8000, 0x11)]) [⟨0x8000, 0x8000, .readOnly⟩]))
      [0x8000] = some ⟨0x5A, 0, 0, 0, 0x34, 0x0603, some 4, [], [0x11]⟩ ∧
    seen (step (behindWindows (mach 0x0600 [0x8D, 0x01, 0x08] 0x5A 0 0 0 0x34 []) [⟨0x0800, 0x0800, .redirect 0x0000⟩]))
      [0x0001, 0x0801] = some ⟨0x5A, 0, 0, 0, 0x34, 0x0603, some 4, [], [0x5A, 0x00]⟩ ∧
    (nextOf (step (behindWindows (mach 0x0600 [0x8D, 0x01, 0x08] 0x5A 0 0 0 0x34 []) [⟨0x0800, 0x0800, .redirect 0x0000⟩]))).map
      (fun t => (t.accesses.drop 3, (t.busRead 0x0801).toOption)) = some ([⟨.write, 0x0801, 0x5A⟩], some 0x5A) := by decide

/-- What the bus was asked stays with it after a step, a reset and other agents' accesses, in order (20_memory.md R73,
R78; 70_reset_and_hazards.md R621). -/
theorem test_bus_remembers :
    (session [.foreignWrite 0x0300 0x5A, .foreignRead 0x0300, .step] ⟨mach 0x0600 [0xEA] 0 0 0 0 0x34 [], .running⟩).2.core.asked =
      [⟨.read, 0x0600, 0xEA⟩, ⟨.foreignRead, 0x0300, 0x5A⟩, ⟨.foreignWrite, 0x0300, 0x5A⟩, ⟨.read, 0xFFFD, 0x00⟩,
        ⟨.read, 0xFFFC, 0x00⟩] := by decide

/-- Other agents' accesses that the bus fails are answered so, store nothing and stop no step; the core's accesses to
the same address go on (20_memory.md R73; 70_reset_and_hazards.md R621; log entry 8). -/
theorem test_foreign_failures :
    (foreignRead 0x0300 (onBus State.reset [⟨.foreignRead, 0x0300, 3⟩])).1 = .error ⟨.foreignRead, 0x0300, 3⟩ ∧
    (foreignWrite 0x0300 0x5A (onBus State.reset [⟨.foreignWrite, 0x0300, 4⟩])).1 = .error ⟨.foreignWrite, 0x0300, 4⟩ ∧
    seenState (session [.foreignWrite 0x0300 0x5A, .foreignRead 0x0300, .setPC 0x0600, .getPC, .step]
      ⟨onBus (mach 0x1111 [] 0xFF 0 0 0 0x34 [(0x0600, 0xAD), (0x0601, 0x00), (0x0602, 0x03)])
        [⟨.foreignRead, 0x0300, 3⟩, ⟨.foreignWrite, 0x0300, 4⟩], .running⟩).2.core [0x0300] =
      ⟨0x00, 0, 0, 0, 0x36, 0x0603, some 4, [], [0x00]⟩ := by decide

/-- After a DecodeFault the host skips the byte with setPC and goes on (60_exceptions.md R501, R536): 02 at 0x0600, then
INX. -/
theorem test_session_after_decode_fault :
    (session [.step, .setPC 0x0601, .step] ⟨mach 0x0600 [0x02, 0xE8] 0 0x41 0 0 0x34 [], .running⟩).1.map (fun o => (decodeFaultOf o).map (·.1)) =
      [some 0x02, none, none] ∧
    seenState (session [.step, .setPC 0x0601, .step] ⟨mach 0x0600 [0x02, 0xE8] 0 0x41 0 0 0x34 [], .running⟩).2.core [] =
      ⟨0, 0x42, 0, 0, 0x34, 0x0602, some 2, [], []⟩ := by decide

/-- A session at an LDA $4000 whose read the bus fails; the reset vector points to an INX. -/
def lostRead : Session :=
  ⟨onBus (mach 0x0600 [0xAD, 0x00, 0x40] 1 2 3 4 5 [(0xC000, 0xE8), (0xFFFD, 0xC0)]) [⟨.read, 0x4000, 7⟩], .running⟩

/-- BRK whose second push fails (60_exceptions.md R503): the first one is not undone. LDA $4000 whose read fails: the next
step is refused (U13), and a reset starts a new session, where INX runs (R536). A reset that fails starts none (R600). -/
theorem test_session_after_bus_fault :
    busLeftOf (step (onBus (mach 0x0600 [0x00] 0 0 0 0 0x34 []) [⟨.write, 0x0101, 5⟩])) =
      some ⟨[(0x0100, 0x06)], [⟨.read, 0x0600, 0x00⟩, ⟨.write, 0x0100, 0x06⟩], ⟨.write, 0x0101, 0x01⟩⟩ ∧
    refusalOf (act .step ⟨State.reset, .afterBusFault⟩) = some .stepAfterBusFault ∧
    refusalOf (act .step ⟨State.reset, .notStarted⟩) = some .stepBeforeReset ∧
    (session [.step, .step] lostRead).1.map (fun o => (busFaultOf o, refusalOf o)) =
      [(some ⟨.read, 0x4000, 7⟩, none), (none, some .stepAfterBusFault)] ∧
    (session [.step, .step, .reset Config.resetValues, .step] lostRead).2.phase = .running ∧
    seenState (session [.step, .step, .reset Config.resetValues, .step] lostRead).2.core [] =
      ⟨0x00, 0x01, 0x00, 0x00, 0x34, 0xC001, some 2, [], []⟩ ∧
    (session [.reset Config.resetValues] ⟨onBus State.reset [⟨.read, 0xFFFD, 5⟩], .running⟩).2.phase = .notStarted := by decide

/-- The cause codes (60_exceptions.md R502). -/
theorem test_cause_codes :
    (Fault.decodeFault 0x02 0x0600 State.reset).code = some 0x01 ∧
    (Fault.busFault ⟨.read, 0, 0⟩ ⟨[], [], ⟨.read, 0, 0⟩⟩).code = some 0x02 ∧
    Diag.stackOverflow.code = 0x10 ∧ Diag.stackUnderflow.code = 0x11 := by decide

/-- The host ports: getPC after setPC, and a foreign write is seen by the next read (00_scope.md R10; 20_memory.md R73);
a foreign write to read-only memory is ignored and one to a mirror redirected, as the core's are. -/
theorem test_host_ports :
    hostGetPC (hostSetPC 0x9000 State.reset) = 0x9000 ∧ (foreignWrite 0x0300 0x5A State.reset).2.readByte 0x0300 = 0x5A ∧
    (foreignWrite 0x8000 0x5A (behindWindows State.reset [⟨0x8000, 0x8000, .readOnly⟩])).2.mem = [] ∧
    (foreignWrite 0x0801 0x5A (behindWindows State.reset [⟨0x0800, 0x0800, .redirect 0x0000⟩])).2.mem = [(0x0001, 0x5A)] := by decide

/-- Memory keeps its canonical form: a 0x00 written removes the entry. -/
theorem test_memory_canonical :
    (State.reset.writeByte 0x0300 0x5A).mem = [(0x0300, 0x5A)] ∧
    ((State.reset.writeByte 0x0300 0x5A).writeByte 0x0300 0x00).mem = [] ∧
    ((State.reset.writeByte 0x0300 0x5A).writeByte 0x0010 0x01).mem = [(0x0010, 0x01), (0x0300, 0x5A)] := by decide

/-! ### Witnesses: a concrete state and operands meeting the hypotheses of each statement together, at the
boundary values of each clause -/

/-- A small machine on the plain-RAM bus: SP at its top, pointers at the zero page's end, C set. -/
def ram : State :=
  mach 0xFFFE [0x6C, 0xFF, 0x02] 0x80 0xFF 0x02 0xFF 0x35 [(0x00FF, 0xFE), (0x0200, 0x90), (0x02FF, 0x20), (0x0102, 0x40)]

/-- The same with SP at its bottom. -/
def ramLow : State := { ram with sp := 0x00 }

/-- The same on a bus that fails two accesses BRK makes. -/
def ramBad : State := onBus ram [⟨.write, 0x0100, 1⟩, ⟨.read, 0xFFFE, 2⟩]

/-- The same with read-only memory at 0x00FF, a mirror of 0x0200 at 0x0300, and no memory at 0x4000 to 0x401F. -/
def ramAnd : State :=
  behindWindows ram [⟨0x00FF, 1, .readOnly⟩, ⟨0x0300, 1, .redirect 0x0200⟩, ⟨0x4000, 0x20, .external⟩]

/-- The same with D set. -/
def ramDec : State := { ram with p := 0x3D }

theorem witness_StepRunsTheDecodedInstruction : 
    ((servedOf (ramAnd.clearOutputs.serve (fetchTrace ramAnd.pc (encode (.jmpInd 0x02FF))))).isSome = true) ∧
    ram.windows = [] ∧ decode (ram.bytesAt ram.pc maxInstrLength) = .ok (.jmpInd 0x02FF, []) ∧
    ∀ acc ∈ fetchTrace ram.pc (encode (.jmpInd 0x02FF)), ram.busFailure .read acc.address = none := by decide

theorem witness_DecodeFaultExactlyOnUnassignedBytes : 
    (ram.busRead ram.pc = .ok 0x6C ∧ 0x6C ∉ unassignedBytes) ∧
    (mach 0x0000 [0x02] 0 0 0 0 0 []).busRead 0x0000 = .ok 0x02 ∧ 0x02 ∈ unassignedBytes := by decide

theorem witness_FetchReadsThenIncrements : 
    ram.busRead ram.pc = .ok 0x6C ∧
    (onBus ram [⟨.read, 0xFFFE, 3⟩]).busRead 0xFFFE = .error ⟨.read, 0xFFFE, 3⟩ := by decide

theorem witness_PlacedInstructionRunsNext : 
    decodeTableWord 24 0x12348D = some (.staAbs 0x1234) ∧
    (nextOf (step ((onBus ram [⟨.read, 0x0000, 3⟩]).withFetchWord 24 0x12348D))).map (fun t => t.readByte 0x1234) = some 0x80 := by decide

theorem witness_BusReadsAndWritesOneByte : 
    (ram.busRead 0xFFFF = .ok 0xFF ∧ ram.busWrite 0xFFFF 0x00 = .ok (ram.writeByte 0xFFFF 0x00).mem) ∧
    ((onBus ram [⟨.read, 0xFFFF, 3⟩]).busFailure .read 0xFFFF = some ⟨.read, 0xFFFF, 3⟩ ∧
      (onBus ram [⟨.read, 0xFFFF, 3⟩]).busRead 0xFFFF = .error ⟨.read, 0xFFFF, 3⟩) ∧
    ((onBus ram [⟨.write, 0x0000, 4⟩]).busFailure .write 0x0000 = some ⟨.write, 0x0000, 4⟩ ∧
      (onBus ram [⟨.write, 0x0000, 4⟩]).busWrite 0x0000 0x12 = .error ⟨.write, 0x0000, 4⟩) ∧
    (ramAnd.busFailure .read 0x00FF = none ∧ ramAnd.busFailure .write 0x00FF = none) ∧
    (ramAnd.behind 0x00FE = .ram ∧ ramAnd.behind 0x00FF = .readOnly ∧ ramAnd.behind 0x0300 = .redirect 0x0200 ∧
      ramAnd.behind 0x0301 = .ram ∧ ramAnd.behind 0x4000 = .external ∧ ramAnd.behind 0x401F = .external ∧
      ramAnd.behind 0x4020 = .ram) ∧
    (ramAnd.busFailure .read 0x401F = none ∧ ramAnd.busFailure .write 0x401F = none ∧ { ramAnd with a := 0x00 } ≠ ramAnd ∧
      ({ ramAnd with a := 0x00 } : State).asked = ramAnd.asked) ∧
    ram.windows = [] := by decide

theorem witness_ReadAfterWrite : ((0xFFFF : Word) ≠ 0x0000 ∧ (ram.writeByte 0xFFFF 0x7F).readByte 0xFFFF = 0x7F) ∧ ram.plainRam ∧
    (foreignWrite 0x0000 0x00 ram).1 = .ok () ∧ (foreignRead 0xFFFF ram).1 = .ok 0xFF := by decide

theorem witness_PushWritesThenIncrements : 
    (ram.sp = 0xFF ∧ ram.plainRam ∧ ram.busWrite (stackAddress ram.sp) 0x12 = .ok (ram.writeByte 0x01FF 0x12).mem) ∧
    (onBus ram [⟨.write, 0x01FF, 3⟩]).busWrite (stackAddress ram.sp) 0x12 = .error ⟨.write, 0x01FF, 3⟩ := by decide

theorem witness_PopDecrementsThenReads : 
    (ramLow.sp = 0x00 ∧ ramLow.plainRam ∧ ramLow.busRead (stackAddress (ramLow.sp - 1)) = .ok 0x00) ∧
    (onBus ramLow [⟨.read, 0x01FF, 3⟩]).busRead (stackAddress (ramLow.sp - 1)) = .error ⟨.read, 0x01FF, 3⟩ := by decide

theorem witness_StackWrapsWithADiagnostic : 
    (ram.plainRam ∧ ram.sp = 0xFF ∧ ram.sp ≠ 0x00) ∧ (ramLow.plainRam ∧ ramLow.sp = 0x00 ∧ ramLow.sp ≠ 0xFF) := by decide

theorem witness_SetFlagChangesOneBit : getFlag 0x01 .c = true ∧ getFlag 0x02 .z = true ∧ getFlag 0x40 .v = true ∧ getFlag 0x80 .n = true ∧
    Machine.Flag.b ≠ .u ∧ getFlag (setFlag 0x20 .b true) .u = getFlag 0x20 .u := by decide

theorem witness_SetNZFromTheValue : Machine.Flag.c ≠ .n ∧ Machine.Flag.c ≠ .z ∧ setNZ 0x34 0x80 = 0xB4 ∧ setNZ 0xB4 0x00 = 0x36 := by decide

/-- Boundary values: X = 0xFF and Y = 0x02 wrap; pointers at 0xFF and 0x02FF; each clause is of its own mode. The
byte at 0x0000 is the third of the code at 0xFFFE, 0x02. -/
theorem witness_EffectiveAddressOfEachMode : ram.plainRam ∧
    ((resolveAddress (.zeroPageIndexedX 0x02) ram).toOption.map (·.1) = some ⟨0x0001, false⟩) ∧
    ((resolveAddress (.absoluteIndexedY 0xFFFE) ram).toOption.map (·.1) = some ⟨0x0000, true⟩) ∧
    ((resolveAddress (.absoluteIndexedY 0xFFFD) ram).toOption.map (·.1) = some ⟨0xFFFF, false⟩) ∧
    ((resolveAddress (.indirectX 0x00) ram).toOption.map (·.1) = some ⟨0x02FE, false⟩) ∧
    ((resolveAddress (.indirectY 0xFF) ram).toOption.map (·.1) = some ⟨0x0300, true⟩) ∧
    ((resolveAddress (.absoluteIndirect 0x02FF) ram).toOption.map (·.1) = some ⟨0x9020, false⟩) := by decide

theorem witness_OperandIsImmediateOrRead : (Operand.zeroPage 0xFF).mode ≠ .immediate ∧
    resolveAddress (.zeroPage 0xFF) ram = .ok (⟨0x00FF, false⟩, ram) ∧ ram.busRead 0x00FF = .ok 0xFE ∧
    (resolveAddress (.zeroPage 0xFF) (onBus ram [⟨.read, 0x00FF, 3⟩])).toOption.map (·.1) = some ⟨0x00FF, false⟩ ∧
    (onBus ram [⟨.read, 0x00FF, 3⟩]).busRead 0x00FF = .error ⟨.read, 0x00FF, 3⟩ ∧
    resolveAddress (.indirectX 0x02) (onBus ram [⟨.read, 0x0002, 3⟩]) =
      .error (.busFault ⟨.read, 0x0002, 3⟩ ((ram.logAccess ⟨.read, 0x0001, 0x00⟩).busLeft ⟨.read, 0x0002, 0x00⟩)) ∧
    Operand.accumulator.mode = .accumulator ∧ Operand.implied.mode = .implied ∧ (Operand.relative 0x80).mode = .relative := by decide

theorem witness_LoadsSetTheirRegister : (Instr.ldaIndY 0xFF).mnemonic = .lda ∧ (Instr.ldxZpY 0x00).mnemonic = .ldx ∧ (Instr.ldyAbsX 0xFFFF).mnemonic = .ldy ∧ ram.plainRam := by decide

theorem witness_StoresWriteTheirRegister : (Instr.staIndX 0x00).mnemonic = .sta ∧ (Instr.stxZpY 0xFF).mnemonic = .stx ∧ (Instr.styAbs 0x0000).mnemonic = .sty ∧ ram.plainRam := by decide

theorem witness_TransfersCopyARegister : (Instr.tax).mnemonic = .tax ∧ (Instr.tay).mnemonic = .tay ∧ (Instr.tsx).mnemonic = .tsx ∧ (Instr.txa).mnemonic = .txa ∧ (Instr.tya).mnemonic = .tya ∧ (Instr.txs).mnemonic = .txs := by decide

theorem witness_AdcBinarySum : (Instr.adcImm 0x80).mnemonic = .adc ∧ ram.flag .d = false ∧ ram.plainRam := by decide

theorem witness_AdcDecimalSum : (Instr.adcImm 0x99).mnemonic = .adc ∧ ramDec.flag .d = true ∧ ramDec.plainRam := by decide

theorem witness_SbcBinaryDifference : (Instr.sbcImm 0x01).mnemonic = .sbc ∧ ram.flag .d = false ∧ ram.plainRam := by decide

theorem witness_SbcDecimalDifference : (Instr.sbcImm 0x81).mnemonic = .sbc ∧ ramDec.flag .d = true ∧ ramDec.plainRam := by decide

theorem witness_ArithmeticLaws : ((Instr.adcIndY 0xFF).mnemonic = .adc ∨ (Instr.adcIndY 0xFF).mnemonic = .sbc) ∧ ramDec.plainRam ∧
    (nextOf (exec (.adcIndY 0xFF) ramDec)).isSome = true := by decide

theorem witness_IncDecMemory : (Instr.incZp 0xFF).mnemonic = .inc ∧ (Instr.decAbsX 0xFFFF).mnemonic = .dec ∧ ram.plainRam := by decide

theorem witness_IncDecRegisters : (Instr.inx).mnemonic = .inx ∧ (Instr.iny).mnemonic = .iny ∧ (Instr.dex).mnemonic = .dex ∧ (Instr.dey).mnemonic = .dey := by decide

theorem witness_ShiftsByOnePosition : 
    ((Instr.aslAcc).mnemonic = .asl ∧ (Instr.lsrAcc).mnemonic = .lsr ∧ (Instr.rolAcc).mnemonic = .rol ∧ (Instr.rorAcc).mnemonic = .ror ∧ Instr.aslAcc.operand = .accumulator) ∧
    ((Instr.aslZp 0xFF).mnemonic = .asl ∧ (Instr.lsrAbs 0x02FF).mnemonic = .lsr ∧ (Instr.rolAbsX 0xFFFF).mnemonic = .rol ∧ (Instr.rorZpX 0xFF).mnemonic = .ror ∧
      (Instr.rorZpX 0xFF).operand ≠ .accumulator ∧ ram.plainRam) := by decide

theorem witness_LogicalCombinesWithA : (Instr.andIndY 0xFF).mnemonic = .and ∧ (Instr.oraImm 0x7F).mnemonic = .ora ∧ (Instr.eorAbsX 0xFFFF).mnemonic = .eor ∧ ram.plainRam ∧ (7 : Nat) < 8 := by decide

theorem witness_CompareAccumulator : (Instr.cmpImm 0x80).mnemonic = .cmp ∧ ram.plainRam := by decide

theorem witness_CompareIndexRegisters : (Instr.cpxImm 0xFF).mnemonic = .cpx ∧ (Instr.cpyZp 0xFF).mnemonic = .cpy ∧ ram.plainRam := by decide

theorem witness_BitTestsMemory : (Instr.bitZp 0xFF).mnemonic = .bit ∧ ram.plainRam := by decide

theorem witness_BranchesOnOneFlag : (Instr.bcc 0x80).mnemonic = .bcc ∧ (Instr.bcs 0x80).mnemonic = .bcs ∧ (Instr.beq 0x80).mnemonic = .beq ∧ (Instr.bmi 0x80).mnemonic = .bmi ∧ (Instr.bne 0x80).mnemonic = .bne ∧ (Instr.bpl 0x80).mnemonic = .bpl ∧ (Instr.bvc 0x80).mnemonic = .bvc ∧ (Instr.bvs 0x80).mnemonic = .bvs ∧
    (nextOf (exec (.bcs 0x80) ram)).map (·.pc) = some 0xFF7E ∧ (nextOf (exec (.bcs 0x02) ram)).map (·.pc) = some 0x0000 ∧
    (nextOf (exec (.bcc 0x02) ram)).map (·.pc) = some 0xFFFE := by decide

theorem witness_ClearInstructionsClearOneFlag : (Instr.clc).mnemonic = .clc ∧ (Instr.cld).mnemonic = .cld ∧ (Instr.cli).mnemonic = .cli ∧ (Instr.clv).mnemonic = .clv := by decide

theorem witness_SetInstructionsSetOneFlag : (Instr.sec).mnemonic = .sec ∧ (Instr.sed).mnemonic = .sed ∧ (Instr.sei).mnemonic = .sei := by decide

theorem witness_JumpGoesToTheEffectiveAddress : 
    ((Instr.jmpAbs 0xFFFF).mnemonic = .jmp ∧ (Instr.jmpAbs 0xFFFF).operand = .absolute 0xFFFF) ∧
    ((Instr.jmpInd 0x02FF).mnemonic = .jmp ∧ (Instr.jmpInd 0x02FF).operand = .absoluteIndirect 0x02FF ∧ ram.plainRam) := by decide

theorem witness_JsrPushesReturnAndJumps : (Instr.jsrAbs 0x3000).mnemonic = .jsr ∧ ram.plainRam ∧ (ram.sp = 0xFF ∨ ram.sp = 0xFE) := by decide

theorem witness_RtsPopsAndIncrements : Instr.rts.mnemonic = .rts ∧ ramLow.plainRam ∧ (ramLow.sp = 0x00 ∨ ramLow.sp = 0x01) := by decide

/-- The state after JSR is itself a state with the SP and the bytes JSR left. -/
theorem witness_JsrThenRtsReturns : 
    (Instr.jsrAbs 0x3000).mnemonic = .jsr ∧ Instr.rts.mnemonic = .rts ∧ ram.windows = [] ∧
    (nextOf (exec (.jsrAbs 0x3000) ram)).map (fun t => (t.pc, t.sp, t.windows, t.accesses.drop 2)) =
      some (0x3000, 0x01, [], [⟨.write, stackAddress 0xFF, 0xFF⟩, ⟨.write, stackAddress 0x00, 0xFD⟩]) ∧
    ((nextOf (exec (.jsrAbs 0x3000) ram)).bind (fun t => nextOf (exec .rts t))).map (fun v => (v.pc, v.sp, v.accesses.drop 4)) =
      some (0xFFFE, 0xFF, [⟨.read, stackAddress 0x00, 0xFD⟩, ⟨.read, stackAddress 0xFF, 0xFF⟩]) := by decide

theorem witness_PushInstructions : (Instr.php).mnemonic = .php ∧ (Instr.pha).mnemonic = .pha ∧ ram.plainRam ∧ ram.sp = 0xFF := by decide

theorem witness_PullInstructions : (Instr.plp).mnemonic = .plp ∧ (Instr.pla).mnemonic = .pla ∧ ramLow.plainRam ∧ ramLow.sp = 0x00 := by decide

theorem witness_NopOnlyConsumesCycles : Instr.nop.mnemonic = .nop := by decide

theorem witness_BrkTakesTheTrap : Instr.brk.mnemonic = .brk ∧ ram.plainRam ∧ ram.sp.toNat ≥ 0xFD := by decide

theorem witness_RtiRestoresStatusAndPC : Instr.rti.mnemonic = .rti ∧ ramLow.plainRam ∧ ramLow.sp.toNat ≤ 0x02 := by decide

/-- The state after BRK is itself a state with the SP and the bytes BRK left. -/
theorem witness_BrkThenRtiReturns : 
    Instr.brk.mnemonic = .brk ∧ Instr.rti.mnemonic = .rti ∧ ((2 : Byte).toNat < 3) ∧ ram.windows = [] ∧
    (nextOf (exec .brk ram)).map (fun t => (t.windows, (t.accesses.drop 2).take 3)) =
      some ([], [⟨.write, stackAddress 0xFF, 0xFF⟩, ⟨.write, stackAddress 0x00, 0xFE⟩, ⟨.write, stackAddress 0x01, 0x35⟩]) ∧
    ((nextOf (exec .brk ram)).bind (fun t => nextOf (exec .rti t))).map (fun v => (v.pc, v.p, v.sp, v.accesses.drop 7)) =
      some (0xFFFE, 0x35, 0xFF,
        [⟨.read, stackAddress 0x01, 0x35⟩, ⟨.read, stackAddress 0x00, 0xFE⟩, ⟨.read, stackAddress 0xFF, 0xFF⟩]) := by decide

theorem witness_ResetReadsTheVector : 
    (ram.plainRam ∧ ram.busRead 0xFFFC = .ok 0x00 ∧ (ram.logAccess ⟨.read, 0xFFFC, 0x00⟩).busRead 0xFFFD = .ok 0x00) ∧
    (onBus ram [⟨.read, 0xFFFC, 1⟩]).busRead 0xFFFC = .error ⟨.read, 0xFFFC, 1⟩ ∧
    ((onBus ram [⟨.read, 0xFFFD, 2⟩]).busRead 0xFFFC = .ok 0x00 ∧
      ((onBus ram [⟨.read, 0xFFFD, 2⟩]).logAccess ⟨.read, 0xFFFC, 0x00⟩).busRead 0xFFFD = .error ⟨.read, 0xFFFD, 2⟩) := by decide

theorem witness_ResetStateIsTheResetSequence : ({ mach 0x1234 [] 1 2 3 4 5 [] with accesses := [] } : State).mem = [] ∧
    ({ mach 0x1234 [] 1 2 3 4 5 [] with accesses := [] } : State).plainRam ∧
    ({ mach 0x1234 [] 1 2 3 4 5 [] with accesses := [] } : State).asked = [] := by decide

/-- Not taken; taken to 0xFFFF, in the page; taken to 0x0000, out of it; and at displacement 0x00, taken and not taken,
with the same PC (V-BR8). -/
theorem witness_BranchCycles : 
    (Instr.bcc 0x00).mnemonic = .bcc ∧ (Instr.bcs 0x00).mnemonic = .bcs ∧ (Instr.beq 0x00).mnemonic = .beq ∧ (Instr.bmi 0x00).mnemonic = .bmi ∧ (Instr.bne 0x00).mnemonic = .bne ∧ (Instr.bpl 0x00).mnemonic = .bpl ∧ (Instr.bvc 0x00).mnemonic = .bvc ∧ (Instr.bvs 0x00).mnemonic = .bvs ∧
    ((nextOf (exec (.bcc 0x02) ram)).map (fun t => (t.pc, t.cycles)) = some (0xFFFE, some 2) ∧
      (nextOf (exec (.bcs 0x01) ram)).map (fun t => (t.pc, t.cycles)) = some (0xFFFF, some 3) ∧
      (nextOf (exec (.bcs 0x02) ram)).map (fun t => (t.pc, t.cycles)) = some (0x0000, some 4)) ∧
    (ram.flag .c = true ∧ (nextOf (exec (.bcs 0x00) ram)).map (fun t => (t.pc, t.cycles)) = some (0xFFFE, some 3) ∧
      (nextOf (exec (.bcc 0x00) ram)).map (fun t => (t.pc, t.cycles)) = some (0xFFFE, some 2)) := by decide

theorem witness_CycleCountsFollowTheTable : 
    ((Instr.ldaAbsY 0xFFFD).mode ≠ .relative ∧ (.absoluteIndexedY, 4, true) ∈ cycleCells .lda ∧
      (nextOf (exec (.ldaAbsY 0xFFFD) ram)).map (·.cycles) = some (some 4) ∧
      (nextOf (exec (.ldaAbsY 0xFFFE) ram)).map (·.cycles) = some (some 5)) ∧
    ((.absoluteIndexedY, 5, false) ∈ cycleCells .sta ∧
      (nextOf (exec (.staAbsY 0xFFFE) ram)).map (·.cycles) = some (some 5)) := by decide

theorem witness_StepKeepsMemoryCanonical : 
    (ram.wf = true ∧ ram.mem ≠ [] ∧ (nextOf (step ram)).isSome = true) ∧
    (session [.foreignRead 0x00FF, .step, .foreignWrite 0xFFFF 0x00, .setPC 0x0000, .getPC, .reset Config.resetValues]
      ⟨ram, .running⟩).2.phase = .running := by decide

theorem witness_EveryInstructionCompletes : ram.plainRam ∧ (nextOf (exec (.incAbsX 0xFFFF) ram)).isSome = true ∧
    busFaultOf (exec .pha (onBus ram [⟨.write, 0x01FF, 8⟩])) = some ⟨.write, 0x01FF, 8⟩ := by decide

theorem witness_OnlyDecodeAndBusFaultsStop : 
    (decodeFaultOf (step (mach 0x0000 [0xFF] 0 0 0 0 0 []))).map (fun d => (d.1, d.2.1)) = some (0xFF, 0x0000) ∧
    (Session.mk ram .notStarted).phase = .notStarted ∧ (Session.mk ram .afterBusFault).phase = .afterBusFault ∧
    (Session.mk ram .running).phase = .running ∧ (nextOf (resetSession Config.resetValues ram)).isSome = true ∧
    (busLeftOf (step (onBus ram [⟨.read, 0x0200, 8⟩]))).map (·.failed) = some ⟨.read, 0x0200, 0x00⟩ ∧
    busFaultOf (step (onBus ram [⟨.read, 0x0200, 8⟩])) = some ⟨.read, 0x0200, 8⟩ := by decide

/-- INC, and a step, complete on one bus and meet a failing access on another; BRK meets two failing accesses, the second push first; NOP meets none; the opcode fetch fails; the last operand fetch
fails. -/
theorem witness_FirstFailingAccessEndsTheInstruction : 
    ((nextOf (exec (.incZp 0xFF) ram)).map (·.accesses) = some (ram.accesses ++ [⟨.read, 0x00FF, 0xFE⟩, ⟨.write, 0x00FF, 0xFF⟩]) ∧
      failureOf ((ram.onBusOf (onBus ramAnd [⟨.write, 0x00FF, 6⟩])).serve [⟨.read, 0x00FF, 0xFE⟩, ⟨.write, 0x00FF, 0xFF⟩]) =
        some ⟨.write, 0x00FF, 6⟩ ∧
      busFaultOf (exec (.incZp 0xFF) (ram.onBusOf (onBus ramAnd [⟨.write, 0x00FF, 6⟩]))) = some ⟨.write, 0x00FF, 6⟩) ∧
    ((nextOf (step ram)).map (·.accesses) =
        some (fetchTrace 0xFFFE [0x6C, 0xFF, 0x02] ++ [⟨.read, 0x02FF, 0x20⟩, ⟨.read, 0x0200, 0x90⟩]) ∧
      failureOf ((ram.onBusOf (onBus ramAnd [⟨.read, 0x0200, 7⟩])).clearOutputs.serve (fetchTrace 0xFFFE [0x6C, 0xFF, 0x02] ++
        [⟨.read, 0x02FF, 0x20⟩, ⟨.read, 0x0200, 0x90⟩])) = some ⟨.read, 0x0200, 7⟩) ∧
    ((nextOf (exec .brk { ramBad with busFailures := [] })).isSome = true ∧
      busFaultOf (exec .brk ramBad) = some ⟨.write, 0x0100, 1⟩ ∧ (nextOf (exec .nop ramBad)).isSome = true) ∧
    ((nextOf (step { ramBad with busFailures := [] })).isSome = true ∧
      busFaultOf (step ramBad) = some ⟨.read, 0xFFFE, 2⟩) ∧
    (encode (.jmpInd 0x02FF) = [] ++ 0x6C :: [0xFF, 0x02] ∧ ramBad.clearOutputs.serve (fetchTrace ramBad.pc []) = .ok ramBad.clearOutputs ∧
      ramBad.clearOutputs.busRead (ramBad.pc + 0) = .error ⟨.read, 0xFFFE, 2⟩) ∧
    (encode (.jmpInd 0x02FF) = [0x6C, 0xFF] ++ 0x02 :: [] ∧
      (servedOf ((onBus ram [⟨.read, 0x0000, 5⟩]).clearOutputs.serve (fetchTrace ram.pc [0x6C, 0xFF]))).map
        (fun u => u.busRead (ram.pc + 2)) = some (.error ⟨.read, 0x0000, 5⟩)) := by decide

/-- The other bus serves the same accesses and keeps its own memory. -/
theorem witness_TraceAccountsForMemory : 
    (nextOf (exec (.incZp 0xFF) ram)).map (·.accesses.drop 2) = some [⟨.read, 0x00FF, 0xFE⟩, ⟨.write, 0x00FF, 0xFF⟩] ∧
    (servedOf ((ram.onBusOf ramAnd).serve [⟨.read, 0x00FF, 0xFE⟩, ⟨.write, 0x00FF, 0xFF⟩])).map (·.readByte 0x00FF) =
      some 0xFE ∧
    (nextOf (step ram)).map (·.accesses.length) = some 5 ∧
    (servedOf ((ram.onBusOf ramAnd).clearOutputs.serve (fetchTrace 0xFFFE [0x6C, 0xFF, 0x02] ++
      [⟨.read, 0x02FF, 0x20⟩, ⟨.read, 0x0200, 0x90⟩]))).isSome = true := by decide

theorem witness_OnlyListedFlagsChange : 
    (nextOf (exec (.adcImm 0x80) ram)).isSome = true ∧ Machine.Flag.d ∉ flagsWritten .adc ∧
    (nextOf (exec .php ram)).isSome = true ∧ Machine.Flag.b ∉ flagsWritten .php := by decide

theorem witness_OnlyListedRegistersChange : 
    (nextOf (exec (.aslZp 0xFF) ram)).isSome = true ∧ Reg.a ∉ regsWritten .asl .zeroPage ∧
    (nextOf (exec .pla ram)).isSome = true ∧ Reg.x ∉ regsWritten .pla .implied := by decide

theorem witness_PcAdvancesByTheLength : 
    transfersControl .sta = false ∧ (nextOf (step (mach 0xFFFE [0x8D, 0x34, 0x12] 0 0 0 0 0 []))).map
      (fun t => (t.pc, t.accesses)) = some (0x0001, fetchTrace 0xFFFE [0x8D, 0x34, 0x12] ++ [⟨.write, 0x1234, 0x00⟩]) := by decide

/-- The two parts of `AgreeOutside`, on two states that differ. -/
theorem witness_BreakAndUnusedBitsAreInvisible : 
    ram ≠ { ram with p := 0x05 } ∧ { ram with p := 0x05 } = { ram with p := ({ ram with p := 0x05 } : State).p } ∧
    ram.p &&& ~~~0b00110000 = ({ ram with p := 0x05 } : State).p &&& ~~~0b00110000 := by decide

theorem witness_InterruptDisableMasksNothing : 
    (Instr.plp).mnemonic ≠ .php ∧ (Instr.plp).mnemonic ≠ .brk ∧ ram ≠ { ram with p := 0x01 } ∧
    { ram with p := 0x01 } = { ram with p := ({ ram with p := 0x01 } : State).p } ∧
    ram.p &&& ~~~0b00110100 = ({ ram with p := 0x01 } : State).p &&& ~~~0b00110100 := by decide

theorem witness_EncodeOfDecodeIsTheBytes : decode [0x8D, 0x34, 0x12, 0xFF] = .ok (.staAbs 0x1234, [0xFF]) := by decide

end Sys2Proof.Tests
end

section
/-! PROOF. The status register (10_state.md R33, R35, R40). -/

namespace Sys2Proof.Machine

/-- Settles O13: the bits of `getFlag` are its definition, those of `setFlag` are `getFlag_setFlag`. -/
theorem setFlagChangesOneBit : Obligations.SetFlagChangesOneBit := fun p f v =>
  ⟨⟨rfl, rfl, rfl, rfl, rfl, rfl, rfl, rfl⟩, getFlag_setFlag_same p f v, fun g => getFlag_setFlag_other p f g v⟩

/-- Settles O14: `getFlag_setNZ`, with equality to 0 read as a number. -/
theorem setNZFromTheValue : Obligations.SetNZFromTheValue := by
  intro p v
  refine ⟨getFlag_setNZ_n p v, ?_, fun f hn hz => getFlag_setNZ_other p v f hz hn⟩
  rw [getFlag_setNZ_z, Bool.eq_iff_iff, beq_iff_eq, decide_eq_true_eq]
  exact BitVec.toNat_inj.symm

end Sys2Proof.Machine
end

section
/-! SUPPORT. What every instruction leaves alone, on any bus: the registers and flags its rule does not list, PC unless it
transfers control, and the accesses made before it. One lemma per update of the state, one per shared operation, one per
family of instructions; `ruleOf_writesOnly` puts them together. -/

namespace Sys2Proof.Machine

/-- Of `s`, `t` keeps every register but those in `regs`, every flag but those in `flags`, and PC unless control is
transferred; the trace has only grown. -/
structure WritesOnly (regs : List Reg) (flags : List Flag) (jumps : Bool) (s t : State) : Prop where
  registers : ∀ r, r ∉ regs → t.reg r = s.reg r
  statusBits : ∀ f, f ∉ flags → t.flag f = s.flag f
  pc : jumps = false → t.pc = s.pc
  trace : s.accesses <+: t.accesses

namespace WritesOnly

variable {regs : List Reg} {flags : List Flag} {jumps : Bool} {s t u : State}

theorem refl (s : State) : WritesOnly regs flags jumps s s :=
  ⟨fun _ _ => rfl, fun _ _ => rfl, fun _ => rfl, List.prefix_rfl⟩

theorem trans (h : WritesOnly regs flags jumps s t) (g : WritesOnly regs flags jumps t u) :
    WritesOnly regs flags jumps s u :=
  ⟨fun r hr => (g.registers r hr).trans (h.registers r hr), fun f hf => (g.statusBits f hf).trans (h.statusBits f hf),
    fun hj => (g.pc hj).trans (h.pc hj), h.trace.trans g.trace⟩

/-! ### Updates of the state -/

theorem setReg (h : WritesOnly regs flags jumps s t) {r : Reg} (hr : r ∈ regs) (v : Byte) :
    WritesOnly regs flags jumps s (t.setReg r v) :=
  h.trans ⟨fun q hq => State.setReg_reg_other _ _ _ _ fun e => hq (e ▸ hr), fun f _ => State.setReg_flag _ _ _ f,
    fun _ => State.setReg_pc _ _ _, by simp⟩

theorem setP (h : WritesOnly regs flags jumps s t) {p : Byte} (hp : ∀ f, f ∉ flags → getFlag p f = t.flag f) :
    WritesOnly regs flags jumps s (t.setP p) :=
  h.trans ⟨fun _ _ => State.setP_reg _ _ _, hp, fun _ => rfl, List.prefix_rfl⟩

theorem setFlag (h : WritesOnly regs flags jumps s t) {f : Flag} (hf : f ∈ flags) (v : Bool) :
    WritesOnly regs flags jumps s (t.setFlag f v) :=
  h.setP fun _ hg => getFlag_setFlag_other _ _ _ _ fun e => hg (e ▸ hf)

theorem setNZ (h : WritesOnly regs flags jumps s t) (hz : .z ∈ flags) (hn : .n ∈ flags) (v : Byte) :
    WritesOnly regs flags jumps s (t.setNZ v) :=
  h.setP fun _ hg => getFlag_setNZ_other _ _ _ (fun e => hg (e ▸ hz)) (fun e => hg (e ▸ hn))

/-- Writing the whole of P, for the instructions that list every flag. -/
theorem setStatus (h : WritesOnly regs [.c, .z, .i, .d, .b, .u, .v, .n] jumps s t) (p : Byte) :
    WritesOnly regs [.c, .z, .i, .d, .b, .u, .v, .n] jumps s (t.setP p) :=
  h.setP fun f hf => by cases f <;> simp at hf

theorem setPC (h : WritesOnly regs flags true s t) (w : Word) : WritesOnly regs flags true s (t.setPC w) :=
  h.trans ⟨fun _ _ => State.setPC_reg _ _ _, fun _ _ => rfl, nofun, List.prefix_rfl⟩

theorem charge (h : WritesOnly regs flags jumps s t) (mn : Mnemonic) (m : Mode) (n : Nat) :
    WritesOnly regs flags jumps s (t.charge mn m n) :=
  h.trans ⟨fun _ _ => State.charge_reg _ _ _ _ _, fun _ _ => rfl, fun _ => rfl, List.prefix_rfl⟩

/-! ### Shared operations -/

theorem of_reads (h : SameButTrace s t) (ht : s.accesses <+: t.accesses) : WritesOnly regs flags jumps s t :=
  ⟨fun r _ => h.reg r, fun f _ => h.flag f, fun _ => h.pc, ht⟩

end WritesOnly

/-- A run only adds to the trace. -/
theorem Runs.trace {β : Type} {E : Fault → Prop} {l : Answer β} {m : State → Except Fault β} {s : State} {b : β}
    (h : Runs E l m s) (hb : m s = .ok b) : s.accesses <+: (l.get b).accesses := by
  obtain ⟨tr, h1, -⟩ := h.ok b hb
  exact ⟨tr, (congrArg State.accesses (serve_ok h1).1).symm⟩

section
variable {regs : List Reg} {flags : List Flag} {jumps : Bool} {s t : State}

theorem memRead_writesOnly {a : Word} {v : Byte} (h : memRead a s = .ok (v, t)) : WritesOnly regs flags jumps s t :=
  .of_reads (memRead_same h) ((memRead_runs (E := fun _ => False) a s).trace h)

theorem read16_writesOnly {a w : Word} (h : read16 a s = .ok (w, t)) : WritesOnly regs flags jumps s t :=
  .of_reads (read16_same h) ((read16_runs (E := fun _ => False) a s).trace h)

theorem resolveAddress_writesOnly {o : Operand} {r : Resolved} (h : resolveAddress o s = .ok (r, t)) :
    WritesOnly regs flags jumps s t :=
  .of_reads (resolveAddress_ok h).2 ((resolveAddress_runs (E := fun _ => False) (resolveAddress_ok h).1 s).trace h)

theorem resolveOperand_writesOnly {o : Operand} {m : OperandValue} (h : resolveOperand o s = .ok (m, t)) :
    WritesOnly regs flags jumps s t :=
  .of_reads (resolveOperand_ok h).2 ((resolveOperand_runs (E := fun _ => False) (resolveOperand_ok h).1 s).trace h)

theorem memWrite_writesOnly {a : Word} {v : Byte} (h : memWrite a v s = .ok t) : WritesOnly regs flags jumps s t := by
  obtain ⟨m, -, rfl⟩ := memWrite_ok_iff.1 h
  exact ⟨by simp, fun _ _ => rfl, fun _ => rfl, List.prefix_append _ _⟩

theorem State.pushedTo_reg_other (s : State) (v : Byte) (m : Memory) {r : Reg} (hr : r ≠ .sp) :
    (s.pushedTo v m).reg r = s.reg r := by
  cases r with
  | sp => exact absurd rfl hr
  | a | x | y => rfl

theorem State.poppedAs_reg_other (s : State) (v : Byte) {r : Reg} (hr : r ≠ .sp) : (s.poppedAs v).reg r = s.reg r := by
  cases r with
  | sp => exact absurd rfl hr
  | a | x | y => rfl

theorem push_writesOnly {v : Byte} (h : push v s = .ok t) (hsp : .sp ∈ regs) : WritesOnly regs flags jumps s t := by
  obtain ⟨m, -, rfl⟩ := push_ok_iff.1 h
  exact ⟨fun r hr => State.pushedTo_reg_other s v m fun e => hr (e ▸ hsp), fun _ _ => rfl, fun _ => rfl,
    List.prefix_append _ _⟩

theorem pop_writesOnly {v : Byte} (h : pop s = .ok (v, t)) (hsp : .sp ∈ regs) : WritesOnly regs flags jumps s t := by
  obtain ⟨-, rfl⟩ := pop_ok_iff.1 h
  exact ⟨fun r hr => State.poppedAs_reg_other s v fun e => hr (e ▸ hsp), fun _ _ => rfl, fun _ => rfl,
    List.prefix_append _ _⟩

theorem pushWord_writesOnly {w : Word} (h : pushWord w s = .ok t) (hsp : .sp ∈ regs) : WritesOnly regs flags jumps s t := by
  obtain ⟨s1, h1, h2⟩ := bind_ok.1 h
  exact (push_writesOnly h1 hsp).trans (push_writesOnly h2 hsp)

theorem popWord_writesOnly {w : Word} (h : popWord s = .ok (w, t)) (hsp : .sp ∈ regs) :
    WritesOnly regs flags jumps s t := by
  obtain ⟨⟨lo, s1⟩, h1, h⟩ := bind_ok.1 h
  obtain ⟨⟨hi, s2⟩, h2, h⟩ := bind_ok.1 h
  cases h
  exact (pop_writesOnly h1 hsp).trans (pop_writesOnly h2 hsp)

theorem takeTrap_writesOnly {vector ret : Word} (h : takeTrap vector ret s = .ok t) :
    WritesOnly [.sp] [.i] true s t := by
  obtain ⟨s1, h1, h⟩ := bind_ok.1 h
  obtain ⟨s2, h2, h⟩ := bind_ok.1 h
  obtain ⟨⟨target, s4⟩, h4, h⟩ := bind_ok.1 h
  cases h
  have hpush : WritesOnly [.sp] [.i] true s s2 := (pushWord_writesOnly h1 (by simp)).trans (push_writesOnly h2 (by simp))
  exact ((hpush.setFlag (by simp) true).trans (read16_writesOnly h4)).setPC target

theorem returnFromTrap_writesOnly (h : returnFromTrap s = .ok t) :
    WritesOnly [.sp] [.c, .z, .i, .d, .b, .u, .v, .n] true s t := by
  obtain ⟨⟨p, s1⟩, h1, h⟩ := bind_ok.1 h
  obtain ⟨⟨target, s2⟩, h2, h⟩ := bind_ok.1 h
  cases h
  have hp : WritesOnly [.sp] _ true s (s1.setP p) := (pop_writesOnly h1 (by simp)).setStatus p
  exact (hp.trans (popWord_writesOnly h2 (by simp))).setPC target

/-! ### Families of instructions -/

variable {mn : Mnemonic} {o : Operand}

theorem loadReg_writesOnly {r : Reg} (h : loadReg mn r o s = .ok t) : WritesOnly [r] [.z, .n] false s t := by
  obtain ⟨⟨m, s1⟩, h1, h⟩ := bind_ok.1 h
  cases h
  exact (((resolveOperand_writesOnly h1).setReg (by simp) _).setNZ (by simp) (by simp) _).charge _ _ _

theorem storeReg_writesOnly {r : Reg} (h : storeReg mn r o s = .ok t) : WritesOnly [] [] false s t := by
  obtain ⟨⟨e, s1⟩, h1, h⟩ := bind_ok.1 h
  obtain ⟨s2, h2, h⟩ := bind_ok.1 h
  cases h
  exact ((resolveAddress_writesOnly h1).trans (memWrite_writesOnly h2)).charge _ _ _

theorem transfer_writesOnly {src dst : Reg} (h : transfer mn src dst s = .ok t) : WritesOnly [dst] [.z, .n] false s t := by
  cases h
  exact (((WritesOnly.refl s).setReg (by simp) _).setNZ (by simp) (by simp) _).charge _ _ _

theorem transferNoFlags_writesOnly {src dst : Reg} (h : transferNoFlags mn src dst s = .ok t) :
    WritesOnly [dst] [] false s t := by
  cases h
  exact ((WritesOnly.refl s).setReg (by simp) _).charge _ _ _

theorem setArith_writesOnly (h : WritesOnly [.a] [.c, .z, .v, .n] false s t) (r : AluResult) :
    WritesOnly [.a] [.c, .z, .v, .n] false s (t.setArith r) := by
  refine (h.setReg (r := .a) (by simp) r.result).setP fun f hf => ?_
  simp only [List.mem_cons, not_or] at hf
  obtain ⟨hc, hz, hv, hn, -⟩ := hf
  rw [setArithFlags, getFlag_setNZ_other _ _ _ hz hn, getFlag_setFlag_other _ _ _ _ hv, getFlag_setFlag_other _ _ _ _ hc]
  rfl

theorem addWithCarry_writesOnly (h : addWithCarry mn o s = .ok t) : WritesOnly [.a] [.c, .z, .v, .n] false s t := by
  obtain ⟨⟨m, s1⟩, h1, h⟩ := bind_ok.1 h
  cases h
  exact (setArith_writesOnly (resolveOperand_writesOnly h1) _).charge _ _ _

theorem subtractWithBorrow_writesOnly (h : subtractWithBorrow mn o s = .ok t) :
    WritesOnly [.a] [.c, .z, .v, .n] false s t := by
  obtain ⟨⟨m, s1⟩, h1, h⟩ := bind_ok.1 h
  cases h
  exact (setArith_writesOnly (resolveOperand_writesOnly h1) _).charge _ _ _

theorem modifyMemory_writesOnly {f : Byte → Byte} (h : modifyMemory mn f o s = .ok t) :
    WritesOnly [] [.z, .n] false s t := by
  obtain ⟨⟨e, s1⟩, h1, h⟩ := bind_ok.1 h
  obtain ⟨⟨v, s2⟩, h2, h⟩ := bind_ok.1 h
  obtain ⟨s3, h3, h⟩ := bind_ok.1 h
  cases h
  have hbus : WritesOnly [] [.z, .n] false s s3 :=
    ((resolveAddress_writesOnly h1).trans (memRead_writesOnly h2)).trans (memWrite_writesOnly h3)
  exact (hbus.setNZ (by simp) (by simp) _).charge _ _ _

theorem modifyReg_writesOnly {f : Byte → Byte} {r : Reg} (h : modifyReg mn f r s = .ok t) :
    WritesOnly [r] [.z, .n] false s t := by
  cases h
  exact (((WritesOnly.refl s).setReg (by simp) _).setNZ (by simp) (by simp) _).charge _ _ _

theorem setShiftFlags_writesOnly {regs : List Reg} (h : WritesOnly regs [.c, .z, .n] false s t) (r : ShiftResult) :
    WritesOnly regs [.c, .z, .n] false s (t.setShiftFlags r) :=
  (h.setFlag (by simp) r.carry).setNZ (by simp) (by simp) r.result

theorem operand_accumulator {o : Operand} (h : o.mode = .accumulator) : o = .accumulator := by
  cases o <;> simp [Operand.mode] at h
  rfl

/-- The memory forms of the shifts, in one equation. -/
theorem shift_eq {f : Byte → Bool → ShiftResult} (ho : o.mode ≠ .accumulator) (s : State) : shift mn f o s = (do
    let (e, s1) ← resolveAddress o s
    let (v, s2) ← memRead e.ea s1
    let s3 ← memWrite e.ea (f v (s2.flag .c)).result s2
    return (s3.setShiftFlags (f v (s2.flag .c))).charge mn o.mode (pageCrossExtra mn o.mode e.crossed)) := by
  cases o with
  | accumulator => exact absurd rfl ho
  | _ => rfl

theorem shift_writesOnly {f : Byte → Bool → ShiftResult} (h : shift mn f o s = .ok t) :
    WritesOnly (if o.mode = .accumulator then [.a] else []) [.c, .z, .n] false s t := by
  by_cases ho : o.mode = .accumulator
  · obtain rfl := operand_accumulator ho
    cases h
    exact (setShiftFlags_writesOnly ((WritesOnly.refl s).setReg (r := .a) (by simp [Operand.mode]) _) _).charge _ _ _
  · rw [shift_eq ho] at h
    obtain ⟨⟨e, s1⟩, h1, h⟩ := bind_ok.1 h
    obtain ⟨⟨v, s2⟩, h2, h⟩ := bind_ok.1 h
    obtain ⟨s3, h3, h⟩ := bind_ok.1 h
    cases h
    have hbus : WritesOnly (if o.mode = .accumulator then [.a] else []) [.c, .z, .n] false s s3 :=
      ((resolveAddress_writesOnly h1).trans (memRead_writesOnly h2)).trans (memWrite_writesOnly h3)
    exact (setShiftFlags_writesOnly hbus _).charge _ _ _

theorem logical_writesOnly {f : Byte → Byte → Byte} (h : logical mn f o s = .ok t) : WritesOnly [.a] [.z, .n] false s t := by
  obtain ⟨⟨m, s1⟩, h1, h⟩ := bind_ok.1 h
  cases h
  exact (((resolveOperand_writesOnly h1).setReg (r := .a) (by simp) _).setNZ (by simp) (by simp) _).charge _ _ _

theorem compareReg_writesOnly {r : Reg} (h : compareReg mn r o s = .ok t) : WritesOnly [] [.c, .z, .n] false s t := by
  obtain ⟨⟨m, s1⟩, h1, h⟩ := bind_ok.1 h
  cases h
  refine ((resolveOperand_writesOnly h1).setP fun f hf => ?_).charge _ _ _
  simp only [List.mem_cons, not_or] at hf
  obtain ⟨hc, hz, hn, -⟩ := hf
  rw [getFlag_compareFlags, if_neg hz, if_neg hn, if_neg hc, State.flag]

theorem bitTest_writesOnly (h : bitTest mn o s = .ok t) : WritesOnly [] [.z, .v, .n] false s t := by
  obtain ⟨⟨m, s1⟩, h1, h⟩ := bind_ok.1 h
  cases h
  refine ((resolveOperand_writesOnly h1).setP fun f hf => ?_).charge _ _ _
  simp only [List.mem_cons, not_or] at hf
  obtain ⟨hz, hv, hn, -⟩ := hf
  rw [getFlag_bitFlags, if_neg hz, if_neg hv, if_neg hn, State.flag]

theorem branch_writesOnly {f : Flag} {val : Bool} {off : Byte} (h : branch mn f val off s = .ok t) :
    WritesOnly [] [] true s t := by
  cases h
  refine WritesOnly.charge ?_ _ _ _
  split
  · exact (WritesOnly.refl s).setPC _
  · exact WritesOnly.refl s

theorem flagControl_writesOnly {f : Flag} {val : Bool} (h : flagControl mn f val s = .ok t) :
    WritesOnly [] [f] false s t := by
  cases h
  exact ((WritesOnly.refl s).setFlag (by simp) _).charge _ _ _

theorem jump_writesOnly (h : jump mn o s = .ok t) : WritesOnly [] [] true s t := by
  obtain ⟨⟨e, s1⟩, h1, h⟩ := bind_ok.1 h
  cases h
  exact ((resolveAddress_writesOnly h1).setPC _).charge _ _ _

theorem jumpSubroutine_writesOnly (h : jumpSubroutine mn o s = .ok t) : WritesOnly [.sp] [] true s t := by
  obtain ⟨⟨e, s1⟩, h1, h⟩ := bind_ok.1 h
  obtain ⟨s2, h2, h⟩ := bind_ok.1 h
  cases h
  exact (((resolveAddress_writesOnly h1).trans (pushWord_writesOnly h2 (by simp))).setPC _).charge _ _ _

theorem returnSubroutine_writesOnly (h : returnSubroutine mn s = .ok t) : WritesOnly [.sp] [] true s t := by
  obtain ⟨⟨w, s1⟩, h1, h⟩ := bind_ok.1 h
  cases h
  exact (((popWord_writesOnly h1 (by simp)).setPC w).setPC (w + 1)).charge _ _ _

theorem softwareInterrupt_writesOnly (h : softwareInterrupt mn s = .ok t) : WritesOnly [.sp] [.i] true s t := by
  obtain ⟨s1, h1, h⟩ := bind_ok.1 h
  cases h
  exact (takeTrap_writesOnly h1).charge _ _ _

theorem returnInterrupt_writesOnly (h : returnInterrupt mn s = .ok t) :
    WritesOnly [.sp] [.c, .z, .i, .d, .b, .u, .v, .n] true s t := by
  obtain ⟨s1, h1, h⟩ := bind_ok.1 h
  cases h
  exact (returnFromTrap_writesOnly h1).charge _ _ _

theorem pushByte_writesOnly {v : Byte} (h : pushByte mn v s = .ok t) : WritesOnly [.sp] [] false s t := by
  obtain ⟨s1, h1, h⟩ := bind_ok.1 h
  cases h
  exact (push_writesOnly h1 (by simp)).charge _ _ _

theorem pullStatus_writesOnly (h : pullStatus mn s = .ok t) :
    WritesOnly [.sp] [.c, .z, .i, .d, .b, .u, .v, .n] false s t := by
  obtain ⟨⟨p, s1⟩, h1, h⟩ := bind_ok.1 h
  cases h
  exact ((pop_writesOnly h1 (by simp)).setStatus p).charge _ _ _

theorem pullAccumulator_writesOnly (h : pullAccumulator mn s = .ok t) : WritesOnly [.a, .sp] [.z, .n] false s t := by
  obtain ⟨⟨v, s1⟩, h1, h⟩ := bind_ok.1 h
  cases h
  exact (((pop_writesOnly h1 (by simp)).setReg (r := .a) (by simp) v).setNZ (by simp) (by simp) v).charge _ _ _

theorem noOperation_writesOnly (h : noOperation mn s = .ok t) : WritesOnly [] [] false s t := by
  cases h
  exact (WritesOnly.refl s).charge _ _ _

/-- Every rule writes only what 10_state.md R31, R32, R34, R36 and R42 list for its mnemonic and mode. -/
theorem ruleOf_writesOnly (h : ruleOf mn o s = .ok t) :
    WritesOnly (regsWritten mn o.mode) (flagsWritten mn) (transfersControl mn) s t := by
  cases mn with
  | lda | ldx | ldy => exact loadReg_writesOnly h
  | sta | stx | sty => exact storeReg_writesOnly h
  | tax | tay | tsx | txa | tya => exact transfer_writesOnly h
  | txs => exact transferNoFlags_writesOnly h
  | adc => exact addWithCarry_writesOnly h
  | sbc => exact subtractWithBorrow_writesOnly h
  | inc | dec => exact modifyMemory_writesOnly h
  | inx | iny | dex | dey => exact modifyReg_writesOnly h
  | asl | lsr | rol | ror => exact shift_writesOnly h
  | and | ora | eor => exact logical_writesOnly h
  | cmp | cpx | cpy => exact compareReg_writesOnly h
  | bit => exact bitTest_writesOnly h
  | bcc | bcs | beq | bmi | bne | bpl | bvc | bvs =>
    cases o with
    | relative off => exact branch_writesOnly h
    | _ => cases h
  | clc | cld | cli | clv | sec | sed | sei => exact flagControl_writesOnly h
  | jmp => exact jump_writesOnly h
  | jsr => exact jumpSubroutine_writesOnly h
  | rts => exact returnSubroutine_writesOnly h
  | brk => exact softwareInterrupt_writesOnly h
  | rti => exact returnInterrupt_writesOnly h
  | php | pha => exact pushByte_writesOnly h
  | plp => exact pullStatus_writesOnly h
  | pla => exact pullAccumulator_writesOnly h
  | nop => exact noOperation_writesOnly h

/-- Every instruction that completes writes only what the rules list. -/
theorem exec_writesOnly {i : Instr} (h : exec i s = .next t) :
    WritesOnly (regsWritten i.mnemonic i.mode) (flagsWritten i.mnemonic) (transfersControl i.mnemonic) s t :=
  ruleOf_writesOnly (finish_next.1 (exec_eq_rule i s ▸ h))

/-- A step that completes has fetched an instruction, which ran from the state the fetch left. -/
theorem step_next {s t : State} (h : step s = .next t) : ∃ i u, fetchInstr s.clearOutputs = .ok (i, u) ∧ exec i u = .next t := by
  unfold step at h
  split at h
  · cases h
  · exact ⟨_, _, ‹_›, h⟩

end

/-- Settles O56: the flags part of `exec_writesOnly`. -/
theorem onlyListedFlagsChange : Obligations.OnlyListedFlagsChange :=
  fun _ _ _ f h hf => (exec_writesOnly h).statusBits f hf

/-- Settles O57: the registers part of `exec_writesOnly`. -/
theorem onlyListedRegistersChange : Obligations.OnlyListedRegistersChange :=
  fun _ _ _ r h hr => (exec_writesOnly h).registers r hr

/-- Settles O58: the fetch leaves PC past the instruction's bytes, and `exec_writesOnly` says that the rule keeps it and
only adds to the trace. -/
theorem pcAdvancesByTheLength : Obligations.PcAdvancesByTheLength := by
  intro s t h
  obtain ⟨i, s1, hf, hx⟩ := step_next h
  obtain ⟨u, hu, rfl⟩ := fetchInstr_ok_iff.1 hf
  have hw := exec_writesOnly hx
  obtain ⟨tr, htr⟩ := hw.trace
  refine ⟨i, tr, ?_, fun hj => hw.pc hj⟩
  rw [← htr, (serve_ok hu).1]
  rfl

end Sys2Proof.Machine
end

section
/-! SUPPORT. Two states that agree outside some bits of P take every operation to results that agree outside them, as long
as no flag an instruction reads is among those bits (10_state.md R37). One lemma per update of the state, one per shared
operation, one per family of instructions; `ruleOf_agrees` puts them together. -/

namespace Sys2Proof.Machine

variable {mask : Byte}

/-- The bits of the byte PHP and BRK push. -/
theorem getFlag_pushedP (p : Byte) (f : Flag) : getFlag (pushedP p) f = (decide (f ∈ [.b, .u]) || getFlag p f) := by
  cases f <;> simp [getFlag, pushedP, Flag.bit]

/-- Two bytes agree outside `mask` exactly when every flag outside it is the same in both. -/
theorem and_not_mask_eq_iff {p q : Byte} :
    p &&& ~~~mask = q &&& ~~~mask ↔ ∀ f, getFlag mask f = false → getFlag p f = getFlag q f := by
  have hbit : ∀ r f, getFlag (r &&& ~~~mask) f = (getFlag r f && !getFlag mask f) := by
    intro r f
    simp [getFlag, f.bit_lt]
  constructor
  · intro h f hf
    simpa [hbit, hf] using congrArg (getFlag · f) h
  · intro h
    refine eq_of_flags fun f => ?_
    cases hf : getFlag mask f <;> simp [hbit, hf]
    exact h f hf

/-- The bits of `mask` are among these flags. -/
def MaskWithin (mask : Byte) (fs : List Flag) : Prop := ∀ f, f ∉ fs → getFlag mask f = false

theorem MaskWithin.mono {fs gs : List Flag} (h : MaskWithin mask fs) (hs : fs ⊆ gs) : MaskWithin mask gs :=
  fun f hf => h f fun hm => hf (hs hm)

theorem maskWithin_breakUnused : MaskWithin 0b00110000 [.b, .u] := by
  intro f hf
  cases f with
  | b | u => simp at hf
  | _ => rfl

theorem maskWithin_interruptBreakUnused : MaskWithin 0b00110100 [.i, .b, .u] := by
  intro f hf
  cases f with
  | i | b | u => simp at hf
  | _ => rfl

/-! ### States that agree -/

namespace AgreeOutside

variable {s t : State}

theorem refl (s : State) : AgreeOutside mask s s := ⟨rfl, rfl⟩

section
variable (h : AgreeOutside mask s t)
include h

theorem a : t.a = s.a := (congrArg State.a h.1 :)
theorem x : t.x = s.x := (congrArg State.x h.1 :)
theorem y : t.y = s.y := (congrArg State.y h.1 :)
theorem sp : t.sp = s.sp := (congrArg State.sp h.1 :)
theorem pc : t.pc = s.pc := (congrArg State.pc h.1 :)
theorem reg (r : Reg) : t.reg r = s.reg r := by cases r <;> simp [h.a, h.x, h.y, h.sp]
theorem busRead (w : Word) : t.busRead w = s.busRead w := (congrArg (State.busRead · w) h.1 :)
theorem busWrite (w : Word) (v : Byte) : t.busWrite w v = s.busWrite w v := (congrArg (State.busWrite · w v) h.1 :)
theorem busLeft (b : BusAccess) : t.busLeft b = s.busLeft b := (congrArg (State.busLeft · b) h.1 :)

theorem getFlag {f : Flag} (hf : Machine.getFlag mask f = false) : Machine.getFlag t.p f = Machine.getFlag s.p f :=
  (and_not_mask_eq_iff.1 h.2 f hf).symm

theorem flag {f : Flag} (hf : Machine.getFlag mask f = false) : t.flag f = s.flag f := h.getFlag hf

/-- An update in which P plays no part keeps the agreement. -/
theorem update {g : State → State} (hg : ∀ s q, g (s.setP q) = (g s).setP q := by intros; rfl) :
    AgreeOutside mask (g s) (g t) := by
  have hs : (g s).p = s.p := (congrArg State.p (hg s s.p) :)
  have ht : g t = (g s).setP t.p := (congrArg g h.1).trans (hg s t.p)
  rw [AgreeOutside, ht, hs]
  exact ⟨rfl, h.2⟩

/-- Writing P keeps the agreement when the bytes written agree. -/
theorem setP {p q : Byte} (hp : ∀ f, Machine.getFlag mask f = false → Machine.getFlag q f = Machine.getFlag p f) :
    AgreeOutside mask (s.setP p) (t.setP q) :=
  ⟨(congrArg (State.setP · q) h.1 :), and_not_mask_eq_iff.2 fun f hf => (hp f hf).symm⟩

theorem setReg (r : Reg) (v : Byte) : AgreeOutside mask (s.setReg r v) (t.setReg r v) :=
  h.update (g := (·.setReg r v)) (by intro s q; cases r <;> rfl)

theorem setPC (w : Word) : AgreeOutside mask (s.setPC w) (t.setPC w) := h.update (g := (·.setPC w))

theorem charge (mn : Mnemonic) (m : Mode) (n : Nat) : AgreeOutside mask (s.charge mn m n) (t.charge mn m n) :=
  h.update (g := (·.charge mn m n))

theorem setFlag (f : Flag) (v : Bool) : AgreeOutside mask (s.setFlag f v) (t.setFlag f v) :=
  h.setP fun g hg => by simp only [getFlag_setFlag, h.getFlag hg]

theorem setNZ (v : Byte) : AgreeOutside mask (s.setNZ v) (t.setNZ v) :=
  h.setP fun g hg => by simp only [getFlag_setNZ, h.getFlag hg]

theorem setArith (r : AluResult) : AgreeOutside mask (s.setArith r) (t.setArith r) :=
  (h.setReg .a r.result).setP fun g hg => by simp only [setArithFlags, getFlag_setNZ, getFlag_setFlag, h.getFlag hg]

theorem setShiftFlags (r : ShiftResult) : AgreeOutside mask (s.setShiftFlags r) (t.setShiftFlags r) :=
  (h.setFlag .c r.carry).setNZ r.result

theorem clearOutputs : AgreeOutside mask s.clearOutputs t.clearOutputs := h.update (g := State.clearOutputs)

/-- B and U are set in the byte PHP and BRK push, so what they hold plays no part (49_jumps_stack.md R384, R386). -/
theorem pushedP (hm : MaskWithin mask [.b, .u]) : pushedP t.p = pushedP s.p := by
  refine eq_of_flags fun f => ?_
  rw [getFlag_pushedP, getFlag_pushedP]
  by_cases hf : f ∈ [.b, .u]
  · rw [decide_eq_true hf, Bool.true_or, Bool.true_or]
  · rw [h.getFlag (hm f hf)]

end
end AgreeOutside

/-! ### Results that agree -/

theorem FaultsAgree.refl (f : Fault) : FaultsAgree mask f f := by
  cases f with
  | decodeFault op a s => exact ⟨rfl, rfl, .refl s⟩
  | busFault b left => rfl
  | illegalMode m => rfl

/-- Two answers related by `R`, or two faults that agree. -/
inductive ResultsAgree (mask : Byte) {β : Type} (R : β → β → Prop) : Except Fault β → Except Fault β → Prop
  | ok {b c : β} : R b c → ResultsAgree mask R (.ok b) (.ok c)
  | error {f g : Fault} : FaultsAgree mask f g → ResultsAgree mask R (.error f) (.error g)

/-- One value, with states that agree. -/
def ValuesAgree (mask : Byte) {α : Type} (b c : α × State) : Prop := b.1 = c.1 ∧ AgreeOutside mask b.2 c.2

/-- Two operations whose answers are states agree. -/
abbrev StatesAgree (mask : Byte) : Except Fault State → Except Fault State → Prop := ResultsAgree mask (AgreeOutside mask)

/-- Two operations whose answers are values with states agree. -/
abbrev AnswersAgree (mask : Byte) {α : Type} : Except Fault (α × State) → Except Fault (α × State) → Prop :=
  ResultsAgree mask (ValuesAgree mask)

theorem ResultsAgree.bind {β γ : Type} {R : β → β → Prop} {Q : γ → γ → Prop} {x y : Except Fault β}
    {f g : β → Except Fault γ} (h : ResultsAgree mask R x y) (hf : ∀ b c, R b c → ResultsAgree mask Q (f b) (g c)) :
    ResultsAgree mask Q (x >>= f) (y >>= g) := by
  cases h with
  | ok hb => exact hf _ _ hb
  | error he => exact .error he

theorem ResultsAgree.useValue {α γ : Type} {Q : γ → γ → Prop} {x y : Except Fault (α × State)}
    {f g : α × State → Except Fault γ} (h : AnswersAgree mask x y)
    (hf : ∀ v s t, AgreeOutside mask s t → ResultsAgree mask Q (f (v, s)) (g (v, t))) :
    ResultsAgree mask Q (x >>= f) (y >>= g) :=
  h.bind fun (_, _) (_, _) ⟨hv, hs⟩ => by
    cases hv
    exact hf _ _ _ hs

theorem StatesAgree.outcomes {x y : Except Fault State} (h : StatesAgree mask x y) :
    OutcomesAgree mask (finish x) (finish y) := by
  cases h with
  | ok hs => exact hs
  | error hf => exact hf

/-! ### Shared operations -/

section
variable {s t : State}

theorem memRead_agrees (a : Word) (h : AgreeOutside mask s t) : AnswersAgree mask (memRead a s) (memRead a t) := by
  unfold memRead
  rw [h.busRead]
  cases s.busRead a with
  | error f =>
    simp only [h.busLeft]
    exact .error (.refl _)
  | ok v => exact .ok ⟨rfl, h.update (g := (·.logAccess ⟨.read, a, v⟩))⟩

theorem memWrite_agrees (a : Word) (v : Byte) (h : AgreeOutside mask s t) :
    StatesAgree mask (memWrite a v s) (memWrite a v t) := by
  unfold memWrite
  rw [h.busWrite]
  cases s.busWrite a v with
  | error f =>
    simp only [h.busLeft]
    exact .error (.refl _)
  | ok m => exact .ok (h.update (g := fun s => (s.setMem m).logAccess ⟨.write, a, v⟩))

/-- Two reads, one after the other, of a low and a high byte. -/
theorem readPair_agrees (lo hi : Word) (h : AgreeOutside mask s t) : AnswersAgree mask
    (do
      let (l, s1) ← memRead lo s
      let (k, s2) ← memRead hi s1
      return (joinBytes k l, s2))
    (do
      let (l, s1) ← memRead lo t
      let (k, s2) ← memRead hi s1
      return (joinBytes k l, s2)) :=
  (memRead_agrees lo h).useValue fun _ _ _ h => (memRead_agrees hi h).useValue fun _ _ _ h => .ok ⟨rfl, h⟩

theorem read16_agrees (a : Word) (h : AgreeOutside mask s t) : AnswersAgree mask (read16 a s) (read16 a t) :=
  readPair_agrees _ _ h

theorem read16ZP_agrees (z : Byte) (h : AgreeOutside mask s t) : AnswersAgree mask (read16ZP z s) (read16ZP z t) :=
  readPair_agrees _ _ h

theorem read16Bug_agrees (p : Word) (h : AgreeOutside mask s t) : AnswersAgree mask (read16Bug p s) (read16Bug p t) :=
  readPair_agrees _ _ h

theorem resolveAddress_agrees (o : Operand) (h : AgreeOutside mask s t) :
    AnswersAgree mask (resolveAddress o s) (resolveAddress o t) := by
  cases o with
  | zeroPage z => exact .ok ⟨rfl, h⟩
  | zeroPageIndexedX z => exact .ok ⟨by simp only [h.x], h⟩
  | zeroPageIndexedY z => exact .ok ⟨by simp only [h.y], h⟩
  | absolute w => exact .ok ⟨rfl, h⟩
  | absoluteIndexedX w => exact .ok ⟨by simp only [h.x], h⟩
  | absoluteIndexedY w => exact .ok ⟨by simp only [h.y], h⟩
  | indirectX z =>
    simp only [resolveAddress, h.x]
    exact (read16ZP_agrees _ h).useValue fun _ _ _ h => .ok ⟨rfl, h⟩
  | indirectY z => exact (read16ZP_agrees z h).useValue fun _ _ _ h => .ok ⟨by simp only [h.y], h⟩
  | absoluteIndirect w => exact (read16Bug_agrees w h).useValue fun _ _ _ h => .ok ⟨rfl, h⟩
  | implied | accumulator | immediate v | relative off => exact .error (.refl _)

theorem resolveOperand_agrees (o : Operand) (h : AgreeOutside mask s t) :
    AnswersAgree mask (resolveOperand o s) (resolveOperand o t) := by
  by_cases ho : o.mode = .immediate
  · cases o <;> simp [Operand.mode] at ho
    exact .ok ⟨rfl, h⟩
  · rw [resolveOperand_eq ho, resolveOperand_eq ho]
    exact (resolveAddress_agrees o h).useValue fun r _ _ h =>
      (memRead_agrees r.ea h).useValue fun _ _ _ h => .ok ⟨rfl, h⟩

theorem push_agrees (v : Byte) (h : AgreeOutside mask s t) : StatesAgree mask (push v s) (push v t) := by
  have hd : AgreeOutside mask (if s.sp = 0xFF#8 then s.addDiag .stackOverflow else s)
      (if t.sp = 0xFF#8 then t.addDiag .stackOverflow else t) := by
    rw [h.sp]
    split
    · exact h.update (g := (·.addDiag .stackOverflow))
    · exact h
  simp only [push, hd.sp]
  exact (memWrite_agrees _ v hd).bind fun _ _ h => .ok (h.update (g := fun s => s.setSP (s.sp + 1)))

theorem pop_agrees (h : AgreeOutside mask s t) : AnswersAgree mask (pop s) (pop t) := by
  have hd : AgreeOutside mask (if s.sp = 0x00#8 then s.addDiag .stackUnderflow else s)
      (if t.sp = 0x00#8 then t.addDiag .stackUnderflow else t) := by
    rw [h.sp]
    split
    · exact h.update (g := (·.addDiag .stackUnderflow))
    · exact h
  simp only [pop, State.setSP_sp, hd.sp]
  exact memRead_agrees _ (hd.setReg .sp _)

theorem pushWord_agrees (w : Word) (h : AgreeOutside mask s t) : StatesAgree mask (pushWord w s) (pushWord w t) :=
  (push_agrees _ h).bind fun _ _ h => push_agrees _ h

theorem popWord_agrees (h : AgreeOutside mask s t) : AnswersAgree mask (popWord s) (popWord t) :=
  (pop_agrees h).useValue fun _ _ _ h => (pop_agrees h).useValue fun _ _ _ h => .ok ⟨rfl, h⟩

theorem takeTrap_agrees (hm : MaskWithin mask [.b, .u]) (vector ret : Word)
    (h : AgreeOutside mask s t) : StatesAgree mask (takeTrap vector ret s) (takeTrap vector ret t) := by
  refine (pushWord_agrees ret h).bind fun s1 t1 h => ?_
  rw [h.pushedP hm]
  exact (push_agrees _ h).bind fun _ _ h =>
    (read16_agrees vector (h.setFlag .i true)).useValue fun target _ _ h => .ok (h.setPC target)

theorem returnFromTrap_agrees (h : AgreeOutside mask s t) : StatesAgree mask (returnFromTrap s) (returnFromTrap t) :=
  (pop_agrees h).useValue fun _ _ _ h =>
    (popWord_agrees (h.setP fun _ _ => rfl)).useValue fun target _ _ h => .ok (h.setPC target)

/-! ### Families of instructions -/

variable (mn : Mnemonic) (o : Operand)

theorem loadReg_agrees (r : Reg) (h : AgreeOutside mask s t) : StatesAgree mask (loadReg mn r o s) (loadReg mn r o t) :=
  (resolveOperand_agrees o h).useValue fun _ _ _ h => .ok (((h.setReg r _).setNZ _).charge _ _ _)

theorem storeReg_agrees (r : Reg) (h : AgreeOutside mask s t) :
    StatesAgree mask (storeReg mn r o s) (storeReg mn r o t) := by
  refine (resolveAddress_agrees o h).useValue fun e s1 t1 h => ?_
  simp only [h.reg]
  exact (memWrite_agrees _ _ h).bind fun _ _ h => .ok (h.charge _ _ _)

theorem transfer_agrees (src dst : Reg) (h : AgreeOutside mask s t) :
    StatesAgree mask (transfer mn src dst s) (transfer mn src dst t) := by
  simp only [transfer, h.reg]
  exact .ok (((h.setReg dst _).setNZ _).charge _ _ _)

theorem transferNoFlags_agrees (src dst : Reg) (h : AgreeOutside mask s t) :
    StatesAgree mask (transferNoFlags mn src dst s) (transferNoFlags mn src dst t) := by
  simp only [transferNoFlags, h.reg]
  exact .ok ((h.setReg dst _).charge _ _ _)

theorem addWithCarry_agrees (hd : getFlag mask .d = false) (hc : getFlag mask .c = false) (h : AgreeOutside mask s t) :
    StatesAgree mask (addWithCarry mn o s) (addWithCarry mn o t) := by
  refine (resolveOperand_agrees o h).useValue fun m s1 t1 h => ?_
  simp only [State.decimalMode, h.a, h.flag hd, h.flag hc]
  exact .ok ((h.setArith _).charge _ _ _)

theorem subtractWithBorrow_agrees (hd : getFlag mask .d = false) (hc : getFlag mask .c = false)
    (h : AgreeOutside mask s t) : StatesAgree mask (subtractWithBorrow mn o s) (subtractWithBorrow mn o t) := by
  refine (resolveOperand_agrees o h).useValue fun m s1 t1 h => ?_
  simp only [State.decimalMode, h.a, h.flag hd, h.flag hc]
  exact .ok ((h.setArith _).charge _ _ _)

theorem modifyMemory_agrees (f : Byte → Byte) (h : AgreeOutside mask s t) :
    StatesAgree mask (modifyMemory mn f o s) (modifyMemory mn f o t) :=
  (resolveAddress_agrees o h).useValue fun _ _ _ h => (memRead_agrees _ h).useValue fun _ _ _ h =>
    (memWrite_agrees _ _ h).bind fun _ _ h => .ok ((h.setNZ _).charge _ _ _)

theorem modifyReg_agrees (f : Byte → Byte) (r : Reg) (h : AgreeOutside mask s t) :
    StatesAgree mask (modifyReg mn f r s) (modifyReg mn f r t) := by
  simp only [modifyReg, h.reg]
  exact .ok (((h.setReg r _).setNZ _).charge _ _ _)

theorem logical_agrees (f : Byte → Byte → Byte) (h : AgreeOutside mask s t) :
    StatesAgree mask (logical mn f o s) (logical mn f o t) := by
  refine (resolveOperand_agrees o h).useValue fun m s1 t1 h => ?_
  simp only [h.a]
  exact .ok (((h.setReg .a _).setNZ _).charge _ _ _)

theorem compareReg_agrees (r : Reg) (h : AgreeOutside mask s t) :
    StatesAgree mask (compareReg mn r o s) (compareReg mn r o t) := by
  refine (resolveOperand_agrees o h).useValue fun m s1 t1 h => .ok (AgreeOutside.charge ?_ _ _ _)
  exact h.setP fun f hf => by simp only [getFlag_compareFlags, h.reg, h.getFlag hf]

theorem bitTest_agrees (h : AgreeOutside mask s t) : StatesAgree mask (bitTest mn o s) (bitTest mn o t) := by
  refine (resolveOperand_agrees o h).useValue fun m s1 t1 h => .ok (AgreeOutside.charge ?_ _ _ _)
  exact h.setP fun f hf => by simp only [getFlag_bitFlags, h.a, h.getFlag hf]

theorem branch_agrees {f : Flag} (hf : getFlag mask f = false) (val : Bool) (off : Byte) (h : AgreeOutside mask s t) :
    StatesAgree mask (branch mn f val off s) (branch mn f val off t) := by
  simp only [branch, h.pc, h.flag hf]
  refine .ok (AgreeOutside.charge ?_ _ _ _)
  split
  · exact h.setPC _
  · exact h

theorem flagControl_agrees (f : Flag) (val : Bool) (h : AgreeOutside mask s t) :
    StatesAgree mask (flagControl mn f val s) (flagControl mn f val t) :=
  .ok ((h.setFlag f val).charge _ _ _)

theorem jump_agrees (h : AgreeOutside mask s t) : StatesAgree mask (jump mn o s) (jump mn o t) :=
  (resolveAddress_agrees o h).useValue fun _ _ _ h => .ok ((h.setPC _).charge _ _ _)

theorem jumpSubroutine_agrees (h : AgreeOutside mask s t) :
    StatesAgree mask (jumpSubroutine mn o s) (jumpSubroutine mn o t) := by
  refine (resolveAddress_agrees o h).useValue fun e s1 t1 h => ?_
  simp only [State.decrementPC_pc, h.pc]
  exact (pushWord_agrees _ h).bind fun _ _ h => .ok ((h.setPC _).charge _ _ _)

theorem returnSubroutine_agrees (h : AgreeOutside mask s t) :
    StatesAgree mask (returnSubroutine mn s) (returnSubroutine mn t) :=
  (popWord_agrees h).useValue fun w _ _ h => .ok (((h.setPC w).setPC (w + 1)).charge _ _ _)

theorem softwareInterrupt_agrees (hm : MaskWithin mask [.b, .u]) (h : AgreeOutside mask s t) :
    StatesAgree mask (softwareInterrupt mn s) (softwareInterrupt mn t) := by
  simp only [softwareInterrupt, h.pc]
  exact (takeTrap_agrees hm _ _ h).bind fun _ _ h => .ok (h.charge _ _ _)

theorem returnInterrupt_agrees (h : AgreeOutside mask s t) :
    StatesAgree mask (returnInterrupt mn s) (returnInterrupt mn t) :=
  (returnFromTrap_agrees h).bind fun _ _ h => .ok (h.charge _ _ _)

theorem pushByte_agrees (v : Byte) (h : AgreeOutside mask s t) : StatesAgree mask (pushByte mn v s) (pushByte mn v t) :=
  (push_agrees v h).bind fun _ _ h => .ok (h.charge _ _ _)

theorem pullStatus_agrees (h : AgreeOutside mask s t) : StatesAgree mask (pullStatus mn s) (pullStatus mn t) :=
  (pop_agrees h).useValue fun _ _ _ h => .ok ((h.setP fun _ _ => rfl).charge _ _ _)

theorem pullAccumulator_agrees (h : AgreeOutside mask s t) :
    StatesAgree mask (pullAccumulator mn s) (pullAccumulator mn t) :=
  (pop_agrees h).useValue fun v _ _ h => .ok (((h.setReg .a v).setNZ v).charge _ _ _)

theorem noOperation_agrees (h : AgreeOutside mask s t) : StatesAgree mask (noOperation mn s) (noOperation mn t) :=
  .ok (h.charge _ _ _)

theorem shift_agrees (hc : getFlag mask .c = false) (f : Byte → Bool → ShiftResult) (h : AgreeOutside mask s t) :
    StatesAgree mask (shift mn f o s) (shift mn f o t) := by
  by_cases ho : o.mode = .accumulator
  · obtain rfl := operand_accumulator ho
    simp only [shift, h.a, h.flag hc]
    exact .ok (((h.setReg .a _).setShiftFlags _).charge _ _ _)
  · rw [shift_eq ho, shift_eq ho]
    refine (resolveAddress_agrees o h).useValue fun e s1 t1 h => (memRead_agrees _ h).useValue fun v s2 t2 h => ?_
    simp only [h.flag hc]
    exact (memWrite_agrees _ _ h).bind fun _ _ h => .ok ((h.setShiftFlags _).charge _ _ _)

/-- No rule reads I, B or U, but for PHP and BRK, which push P with B and U set (10_state.md R37; 49_jumps_stack.md R384, R386). -/
theorem ruleOf_agrees (hm : MaskWithin mask [.i, .b, .u])
    (hp : (mn = .php ∨ mn = .brk) → MaskWithin mask [.b, .u]) (h : AgreeOutside mask s t) :
    StatesAgree mask (ruleOf mn o s) (ruleOf mn o t) := by
  have hc : getFlag mask .c = false := hm .c (by decide)
  have hz : getFlag mask .z = false := hm .z (by decide)
  have hd : getFlag mask .d = false := hm .d (by decide)
  have hv : getFlag mask .v = false := hm .v (by decide)
  have hn : getFlag mask .n = false := hm .n (by decide)
  cases mn with
  | lda | ldx | ldy => exact loadReg_agrees _ o _ h
  | sta | stx | sty => exact storeReg_agrees _ o _ h
  | tax | tay | tsx | txa | tya => exact transfer_agrees _ _ _ h
  | txs => exact transferNoFlags_agrees _ _ _ h
  | adc => exact addWithCarry_agrees _ o hd hc h
  | sbc => exact subtractWithBorrow_agrees _ o hd hc h
  | inc | dec => exact modifyMemory_agrees _ o _ h
  | inx | iny | dex | dey => exact modifyReg_agrees _ _ _ h
  | asl | lsr | rol | ror => exact shift_agrees _ o hc _ h
  | and | ora | eor => exact logical_agrees _ o _ h
  | cmp | cpx | cpy => exact compareReg_agrees _ o _ h
  | bit => exact bitTest_agrees _ o h
  | bcc | bcs | beq | bmi | bne | bpl | bvc | bvs =>
    cases o with
    | relative off => exact branch_agrees _ (by assumption) _ off h
    | _ => exact .error (.refl _)
  | clc | cld | cli | clv | sec | sed | sei => exact flagControl_agrees _ _ _ h
  | jmp => exact jump_agrees _ o h
  | jsr => exact jumpSubroutine_agrees _ o h
  | rts => exact returnSubroutine_agrees _ h
  | brk => exact softwareInterrupt_agrees _ (hp (.inr rfl)) h
  | rti => exact returnInterrupt_agrees _ h
  | php =>
    simp only [ruleOf, h.pushedP (hp (.inl rfl))]
    exact pushByte_agrees _ _ h
  | pha =>
    simp only [ruleOf, h.a]
    exact pushByte_agrees _ _ h
  | plp => exact pullStatus_agrees _ h
  | pla => exact pullAccumulator_agrees _ h
  | nop => exact noOperation_agrees _ h

/-- `ruleOf_agrees` for instructions. -/
theorem exec_agrees {i : Instr} (hm : MaskWithin mask [.i, .b, .u])
    (hp : (i.mnemonic = .php ∨ i.mnemonic = .brk) → MaskWithin mask [.b, .u]) (h : AgreeOutside mask s t) :
    OutcomesAgree mask (exec i s) (exec i t) := by
  rw [exec_eq_rule, exec_eq_rule]
  exact StatesAgree.outcomes (ruleOf_agrees _ _ hm hp h)

/-! ### Fetching -/

theorem fetch_agrees (h : AgreeOutside mask s t) : AnswersAgree mask (fetch s) (fetch t) := by
  simp only [fetch, h.pc]
  exact (memRead_agrees _ h).useValue fun _ _ _ h => .ok ⟨rfl, h.update (g := State.incrementPC)⟩

theorem fetchOperand_agrees (form : OpForm) (h : AgreeOutside mask s t) :
    AnswersAgree mask (fetchOperand form s) (fetchOperand form t) := by
  cases form with
  | noOperand i => exact .ok ⟨rfl, h⟩
  | byteOperand f => exact (fetch_agrees h).useValue fun _ _ _ h => .ok ⟨rfl, h⟩
  | wordOperand f =>
    exact (fetch_agrees h).useValue fun _ _ _ h => (fetch_agrees h).useValue fun _ _ _ h => .ok ⟨rfl, h⟩

theorem fetchInstr_agrees (h : AgreeOutside mask s t) : AnswersAgree mask (fetchInstr s) (fetchInstr t) := by
  simp only [fetchInstr, h.pc]
  refine (fetch_agrees h).useValue fun op s1 t1 h => ?_
  dsimp only
  cases opcodeMap op with
  | none => exact .error ⟨rfl, rfl, h.setPC _⟩
  | some form => exact fetchOperand_agrees form h

/-- A step takes states that agree outside `mask` to outcomes that do, when every instruction does. -/
theorem step_agrees (hx : ∀ i s t, AgreeOutside mask s t → OutcomesAgree mask (exec i s) (exec i t))
    (h : AgreeOutside mask s t) : OutcomesAgree mask (step s) (step t) := by
  unfold step
  have hf := fetchInstr_agrees h.clearOutputs
  generalize fetchInstr s.clearOutputs = x, fetchInstr t.clearOutputs = y at hf ⊢
  cases hf with
  | @ok b c hb =>
    obtain ⟨i, s1⟩ := b
    obtain ⟨_, t1⟩ := c
    obtain ⟨rfl, hs⟩ := hb
    exact hx i s1 t1 hs
  | error hf => exact hf

end

/-- Settles O59: no instruction reads B or U, and PHP and BRK push them set. -/
theorem breakAndUnusedBitsAreInvisible : Obligations.BreakAndUnusedBitsAreInvisible := by
  intro s s' h
  have hm := maskWithin_breakUnused
  exact step_agrees (fun _ _ _ => exec_agrees (hm.mono (by simp)) fun _ => hm) h

/-- Settles O60: but for PHP and BRK no instruction reads I, B or U. -/
theorem interruptDisableMasksNothing : Obligations.InterruptDisableMasksNothing := by
  intro i s s' hphp hbrk h
  exact exec_agrees maskWithin_interruptBreakUnused (fun e => (e.elim hphp hbrk).elim) h

end Sys2Proof.Machine
end

section
/-! SUPPORT. Every instruction, every step and every reset is a run on any bus (`Runs`): one lemma per family of rules,
`ruleOf_runs` puts them together. -/

namespace Sys2Proof.Machine

/-! ### The mode a rule needs is one its mnemonic has -/

/-- The mnemonics whose rule reads an operand (30_encoding.md R121). -/
def operandReaders : List Mnemonic :=
  [.lda, .ldx, .ldy, .adc, .sbc, .and, .ora, .eor, .cmp, .cpx, .cpy, .bit]

/-- The mnemonics whose rule asks for an effective address in every mode they have (30_encoding.md R120). -/
def addressUsers : List Mnemonic := [.sta, .stx, .sty, .inc, .dec, .jmp, .jsr]

/-- The shifts: on the accumulator, or on one effective address (44_shifts.md R280). -/
def shiftMnemonics : List Mnemonic := [.asl, .lsr, .rol, .ror]

theorem readable_of_legal {mn : Mnemonic} (hmn : mn ∈ operandReaders) {m : Mode} (h : legalMode mn m = true) :
    readable m = true := by
  have key : ∀ mn ∈ operandReaders, legalMode mn m = true → readable m = true := by cases m <;> decide
  exact key mn hmn h

theorem addressable_of_legal {mn : Mnemonic} (hmn : mn ∈ addressUsers) {m : Mode} (h : legalMode mn m = true) :
    addressable m = true := by
  have key : ∀ mn ∈ addressUsers, legalMode mn m = true → addressable m = true := by cases m <;> decide
  exact key mn hmn h

theorem addressable_of_legal_shift {mn : Mnemonic} (hmn : mn ∈ shiftMnemonics) {m : Mode} (h : legalMode mn m = true) :
    m = .accumulator ∨ addressable m = true := by
  have key : ∀ mn ∈ shiftMnemonics, legalMode mn m = true → m = .accumulator ∨ addressable m = true := by
    cases m <;> decide
  exact key mn hmn h

/-! ### Families of instructions -/

@[simp] theorem State.onBusOf_reg (s bus : State) (r : Reg) : (s.onBusOf bus).reg r = s.reg r := by cases r <;> rfl

@[simp] theorem State.onBusOf_setReg (s bus : State) (r : Reg) (v : Byte) :
    (s.onBusOf bus).setReg r v = (s.setReg r v).onBusOf bus := by cases r <;> rfl

section
variable {E : Fault → Prop} {mn : Mnemonic} {o : Operand}

/-- An operation may take a value from the state, if the bus plays no part in the value. -/
theorem Runs.withValue {α β : Type} {l : Answer β} {m : α → State → Except Fault β} {s : State} (v : State → α)
    (hv : ∀ bus : State, v (s.onBusOf bus) = v s := by intros; rfl) (h : Runs E l (m (v s)) s) :
    Runs E l (fun t => m (v t) t) s :=
  h.congr fun bus => congrArg (fun a => m a (s.onBusOf bus)) (hv bus).symm

theorem loadReg_runs (r : Reg) (ho : readable o.mode = true) (s : State) : Runs E .state (loadReg mn r o) s :=
  (resolveOperand_runs ho s).useValue fun m _ => Runs.pure
    (g := fun t => ((t.setReg r m.value).setNZ m.value).charge mn o.mode (pageCrossExtra mn o.mode m.crossed))
    fun t bus => by rw [State.onBusOf_setReg]; rfl

theorem storeReg_runs (r : Reg) (ho : addressable o.mode = true) (s : State) : Runs E .state (storeReg mn r o) s :=
  (resolveAddress_runs ho s).useValue fun e t =>
    Runs.withValue (State.reg · r) (fun bus => State.onBusOf_reg t bus r)
      (m := fun v t => memWrite e.ea v t >>= fun u => .ok (u.charge mn o.mode (pageCrossExtra mn o.mode e.crossed)))
      ((memWrite_runs e.ea (t.reg r) t).andThen fun _ => Runs.pure)

theorem transfer_runs (src dst : Reg) (s : State) : Runs E .state (transfer mn src dst) s :=
  Runs.pure (g := fun t => ((t.setReg dst (t.reg src)).setNZ (t.reg src)).charge mn .implied 0)
    fun t bus => by rw [State.onBusOf_reg, State.onBusOf_setReg]; rfl

theorem transferNoFlags_runs (src dst : Reg) (s : State) : Runs E .state (transferNoFlags mn src dst) s :=
  Runs.pure (g := fun t => (t.setReg dst (t.reg src)).charge mn .implied 0)
    fun t bus => by rw [State.onBusOf_reg, State.onBusOf_setReg]; rfl

theorem addWithCarry_runs (ho : readable o.mode = true) (s : State) : Runs E .state (addWithCarry mn o) s :=
  (resolveOperand_runs ho s).useValue fun _ _ => Runs.pure

theorem subtractWithBorrow_runs (ho : readable o.mode = true) (s : State) : Runs E .state (subtractWithBorrow mn o) s :=
  (resolveOperand_runs ho s).useValue fun _ _ => Runs.pure

theorem modifyMemory_runs (f : Byte → Byte) (ho : addressable o.mode = true) (s : State) :
    Runs E .state (modifyMemory mn f o) s :=
  (resolveAddress_runs ho s).useValue fun e _ => (memRead_runs e.ea _).useValue fun v _ =>
    (memWrite_runs e.ea (f v) _).andThen fun _ => Runs.pure

theorem modifyReg_runs (f : Byte → Byte) (r : Reg) (s : State) : Runs E .state (modifyReg mn f r) s :=
  Runs.pure (g := fun t => ((t.setReg r (f (t.reg r))).setNZ (f (t.reg r))).charge mn .implied 0)
    fun t bus => by rw [State.onBusOf_reg, State.onBusOf_setReg]; rfl

theorem shift_runs (f : Byte → Bool → ShiftResult) (ho : o.mode = .accumulator ∨ addressable o.mode = true) (s : State) :
    Runs E .state (shift mn f o) s := by
  by_cases hacc : o.mode = .accumulator
  · obtain rfl := operand_accumulator hacc
    exact Runs.pure
  · rw [show shift mn f o = _ from funext (shift_eq hacc)]
    exact (resolveAddress_runs (ho.resolve_left hacc) s).useValue fun e _ => (memRead_runs e.ea _).useValue fun v t =>
      Runs.withValue (fun t => f v (t.flag .c))
        (m := fun r t => memWrite e.ea r.result t >>= fun u =>
          .ok ((u.setShiftFlags r).charge mn o.mode (pageCrossExtra mn o.mode e.crossed)))
        (h := (memWrite_runs e.ea _ t).andThen fun _ => Runs.pure)

theorem logical_runs (f : Byte → Byte → Byte) (ho : readable o.mode = true) (s : State) :
    Runs E .state (logical mn f o) s :=
  (resolveOperand_runs ho s).useValue fun _ _ => Runs.pure

theorem compareReg_runs (r : Reg) (ho : readable o.mode = true) (s : State) : Runs E .state (compareReg mn r o) s :=
  (resolveOperand_runs ho s).useValue fun m _ => Runs.pure
    (g := fun t => (t.setP (compareFlags t.p (t.reg r) m.value)).charge mn o.mode (pageCrossExtra mn o.mode m.crossed))
    fun t bus => by rw [State.onBusOf_reg]; rfl

theorem bitTest_runs (ho : readable o.mode = true) (s : State) : Runs E .state (bitTest mn o) s :=
  (resolveOperand_runs ho s).useValue fun _ _ => Runs.pure

theorem branch_runs (f : Flag) (val : Bool) (off : Byte) (s : State) : Runs E .state (branch mn f val off) s :=
  Runs.withValue (fun t => t.flag f == val)
    (m := fun taken t => .ok ((if taken then t.setPC (t.pc + sext off) else t).charge mn .relative
      (branchExtra t.pc (t.pc + sext off) taken))) (h := by cases s.flag f == val <;> exact Runs.pure)

theorem flagControl_runs (f : Flag) (val : Bool) (s : State) : Runs E .state (flagControl mn f val) s := Runs.pure

theorem jump_runs (ho : addressable o.mode = true) (s : State) : Runs E .state (jump mn o) s :=
  (resolveAddress_runs ho s).useValue fun _ _ => Runs.pure

theorem jumpSubroutine_runs (ho : addressable o.mode = true) (s : State) : Runs E .state (jumpSubroutine mn o) s :=
  (resolveAddress_runs ho s).useValue fun e t => Runs.withValue (fun t => t.decrementPC.pc)
    (m := fun ret t => pushWord ret t >>= fun u => .ok ((u.setPC e.ea).charge mn o.mode 0))
    (h := (pushWord_runs _ t).andThen fun _ => Runs.pure)

theorem returnSubroutine_runs (s : State) : Runs E .state (returnSubroutine mn) s :=
  (popWord_runs s).useValue fun _ _ => Runs.pure

theorem softwareInterrupt_runs (s : State) : Runs E .state (softwareInterrupt mn) s :=
  Runs.withValue State.pc (m := fun ret t => takeTrap Config.brkVector ret t >>= fun u => .ok (u.charge mn .implied 0))
    (h := (takeTrap_runs Config.brkVector s.pc s).andThen fun _ => Runs.pure)

theorem returnInterrupt_runs (s : State) : Runs E .state (returnInterrupt mn) s :=
  (returnFromTrap_runs s).andThen fun _ => Runs.pure

theorem pushByte_runs (v : Byte) (s : State) : Runs E .state (pushByte mn v) s :=
  (push_runs v s).andThen fun _ => Runs.pure

theorem pullStatus_runs (s : State) : Runs E .state (pullStatus mn) s := (pop_runs s).useValue fun _ _ => Runs.pure

theorem pullAccumulator_runs (s : State) : Runs E .state (pullAccumulator mn) s :=
  (pop_runs s).useValue fun _ _ => Runs.pure

theorem noOperation_runs (s : State) : Runs E .state (noOperation mn) s := Runs.pure

/-- Every rule, run in a mode its mnemonic has, is a run that no fault but BusFault ends. -/
theorem ruleOf_runs (h : legalMode mn o.mode = true) (s : State) : Runs E .state (ruleOf mn o) s := by
  cases mn with
  | lda | ldx | ldy => exact loadReg_runs _ (readable_of_legal (by decide) h) s
  | sta | stx | sty => exact storeReg_runs _ (addressable_of_legal (by decide) h) s
  | tax | tay | tsx | txa | tya => exact transfer_runs _ _ s
  | txs => exact transferNoFlags_runs _ _ s
  | adc => exact addWithCarry_runs (readable_of_legal (by decide) h) s
  | sbc => exact subtractWithBorrow_runs (readable_of_legal (by decide) h) s
  | inc | dec => exact modifyMemory_runs _ (addressable_of_legal (by decide) h) s
  | inx | iny | dex | dey => exact modifyReg_runs _ _ s
  | asl | lsr | rol | ror => exact shift_runs _ (addressable_of_legal_shift (by decide) h) s
  | and | ora | eor => exact logical_runs _ (readable_of_legal (by decide) h) s
  | cmp | cpx | cpy => exact compareReg_runs _ (readable_of_legal (by decide) h) s
  | bit => exact bitTest_runs (readable_of_legal (by decide) h) s
  | bcc | bcs | beq | bmi | bne | bpl | bvc | bvs =>
    obtain ⟨off, rfl⟩ := operand_relative (beq_iff_eq.1 h)
    exact branch_runs _ _ off s
  | clc | cld | cli | clv | sec | sed | sei => exact flagControl_runs _ _ s
  | jmp => exact jump_runs (addressable_of_legal (by decide) h) s
  | jsr => exact jumpSubroutine_runs (addressable_of_legal (by decide) h) s
  | rts => exact returnSubroutine_runs s
  | brk => exact softwareInterrupt_runs s
  | rti => exact returnInterrupt_runs s
  | php => exact Runs.withValue (fun t => pushedP t.p) (h := pushByte_runs _ s)
  | pha => exact Runs.withValue State.a (h := pushByte_runs _ s)
  | plp => exact pullStatus_runs s
  | pla => exact pullAccumulator_runs s
  | nop => exact noOperation_runs s

/-- `ruleOf_runs` for instructions. -/
theorem instr_runs (i : Instr) (s : State) : Runs E .state (ruleOf i.mnemonic i.operand) s := ruleOf_runs (instr_legal i) s

/-! ### Steps and resets -/

/-- A step after the outputs are cleared: fetch an instruction, then run its rule (30_encoding.md R110). -/
def fetchAndRun (s : State) : Except Fault State := do
  let (i, s1) ← fetchInstr s
  ruleOf i.mnemonic i.operand s1

theorem step_eq (s : State) : step s = finish (fetchAndRun s.clearOutputs) := by
  unfold step fetchAndRun
  cases fetchInstr s.clearOutputs with
  | error f => rfl
  | ok b => exact exec_eq_rule b.1 b.2

theorem fetchAndRun_runs (s : State) : Runs IsDecodeFault .state fetchAndRun s :=
  (fetchInstr_runs s).useValue fun i t => instr_runs i t

/-- DecodeFault is the fetch's: no rule raises it (60_exceptions.md R501). -/
theorem fetchAndRun_decodeFault {s left : State} {op : Byte} {a : Word}
    (h : fetchAndRun s = .error (.decodeFault op a left)) : fetchInstr s = .error (.decodeFault op a left) := by
  rcases bind_error.1 h with h | ⟨⟨i, s1⟩, -, h⟩
  · exact h
  · rcases (instr_runs (E := fun _ => False) i s1).error _ h with hf | ⟨b, tr, acc, u, e, -⟩
    · exact hf.elim
    · cases e

/-- The registers as a reset sets them, before the vector is read (70_reset_and_hazards.md R600). -/
def State.powerUp (s : State) (r : ResetValues) : State :=
  ((((s.clearOutputs.setA r.a).setX r.x).setY r.y).setSP r.sp).setP r.p

/-- The rest of a reset: PC from the vector (70_reset_and_hazards.md R600). -/
def readEntry (s : State) : Except Fault State := do
  let (entry, s1) ← read16 Config.resetVector s
  return s1.setPC entry

theorem resetSession_eq (r : ResetValues) (s : State) : resetSession r s = finish (readEntry (s.powerUp r)) := rfl

theorem readEntry_runs (s : State) : Runs E .state readEntry s := (read16_runs _ s).useValue fun _ _ => Runs.pure

end

end Sys2Proof.Machine
end

section
/-! PROOF. Memory in canonical form, under every step and every session (20_memory.md R60; 60_exceptions.md R536). -/

namespace Sys2Proof.Machine

/-- What a run answers for an event leaves memory in canonical form, if the faults of its own do. -/
theorem Runs.wf_stateAfter {E : Fault → Prop} {m : State → Except Fault State} {s c : State} {e : Event}
    (h : Runs E .state m c) (hc : c.wf = true)
    (hE : ∀ f, m c = .error f → E f → (stateAfter e s (.fault f)).wf = true) :
    (stateAfter e s (finish (m c))).wf = true := by
  cases hm : m c with
  | ok t => exact h.wf hm hc
  | error f =>
    rcases h.error f hm with hf | ⟨b, tr, acc, u, rfl, hserve, -⟩
    · exact hE f hm hf
    · exact wf_afterBusFault ((serve_ok hserve).2 hc)

theorem wf_stateAfter_step {s : State} (h : s.wf = true) : (stateAfter .step s (step s)).wf = true := by
  rw [step_eq]
  refine (fetchAndRun_runs _).wf_stateAfter h ?_
  rintro _ hm ⟨op, a, left, rfl⟩
  obtain ⟨-, -, rfl, -⟩ := fetchInstr_decodeFault (fetchAndRun_decodeFault hm)
  exact h

theorem wf_stateAfter_reset {s : State} (r : ResetValues) (h : s.wf = true) :
    (stateAfter (.reset r) s (resetSession r s)).wf = true := by
  rw [resetSession_eq]
  exact (readEntry_runs (E := fun _ => False) (s.powerUp r)).wf_stateAfter h fun _ _ hf => hf.elim

/-- Every event of a session keeps memory in canonical form. -/
theorem Session.wf_next {x : Session} (e : Event) (h : x.core.wf = true) : (x.next e).core.wf = true := by
  cases e with
  | reset r => exact wf_stateAfter_reset r h
  | step =>
    obtain ⟨s, phase⟩ := x
    cases phase with
    | running => exact wf_stateAfter_step h
    | notStarted | afterBusFault => exact h
  | getPC | setPC addr => exact h
  | foreignRead addr => exact wf_foreignRead h addr
  | foreignWrite addr v => exact wf_foreignWrite h addr v

theorem wf_session {x : Session} (es : List Event) (h : x.core.wf = true) : (session es x).2.core.wf = true := by
  induction es generalizing x with
  | nil => exact h
  | cons e es ih => exact ih (Session.wf_next e h)

/-- Settles O50: what the bus serves to an instruction or a step keeps the form (`serve_ok`), and so does what a fault
leaves; sessions by induction over their events. -/
theorem stepKeepsMemoryCanonical : Obligations.StepKeepsMemoryCanonical := by
  refine ⟨fun s t h hstep => ?_, fun es _ h => wf_session es h⟩
  have hs := wf_stateAfter_step h
  rwa [hstep] at hs

/-- Settles O51: memory at reset lists nothing. -/
theorem resetMemoryIsCanonical : Obligations.ResetMemoryIsCanonical := rfl

end Sys2Proof.Machine
end

section
/-! PROOF. The trace of accesses accounts for memory, on any bus (20_memory.md R72, R78). -/

namespace Sys2Proof.Machine

/-- A run that answers a state has added to the trace what the bus served, and a bus that serves it alike leads to the
same registers and outputs. -/
theorem Runs.trace_accounts {E : Fault → Prop} {m : State → Except Fault State} {s t : State} (h : Runs E .state m s)
    (ht : m s = .ok t) : ∃ tr, t.accesses = s.accesses ++ tr ∧ s.serve tr = .ok (s.onBusOf t) ∧
      ∀ bus u : State, (s.onBusOf bus).serve tr = .ok u → m (s.onBusOf bus) = .ok (t.onBusOf u) := by
  obtain ⟨tr, hserve, hbus⟩ := h.ok t ht
  exact ⟨tr, congrArg State.accesses (serve_ok hserve).1, hserve, fun bus u hu => (hbus bus).1 u hu⟩

/-- Settles O55: `Runs.trace_accounts`, of an instruction's rule and of a step, whose trace begins empty. -/
theorem traceAccountsForMemory : Obligations.TraceAccountsForMemory := by
  refine ⟨fun i s t h => ?_, fun s t h => ?_⟩
  · rw [exec_eq_rule] at h
    obtain ⟨tr, htr, hserve, hbus⟩ := (instr_runs (E := fun _ => False) i s).trace_accounts (finish_next.1 h)
    refine ⟨tr, htr, serve_kind hserve, hserve, fun bus u hu => ?_⟩
    rw [exec_eq_rule]
    exact finish_next.2 (hbus bus u hu)
  · rw [step_eq] at h
    obtain ⟨tr, htr, hserve, hbus⟩ := (fetchAndRun_runs s.clearOutputs).trace_accounts (finish_next.1 h)
    obtain rfl : t.accesses = tr := htr
    refine ⟨hserve, fun bus u hu => ?_⟩
    rw [step_eq]
    exact finish_next.2 (hbus bus.clearOutputs u hu)

end Sys2Proof.Machine
end

section
/-! PROOF. Memory, the bus and the stack, one access at a time (20_memory.md R60 to R66, R78). -/

namespace Sys2Proof.Machine

/-! ### What the bus may be -/

section
variable {s : State} {k : AccessKind} {a : Word}

theorem behind_of_noWindows (h : s.windows = []) : s.behind a = .ram := by simp [State.behind, h]

theorem busRead_of_memory (hf : s.busFailure k a = none) (hb : s.behind a = .ram ∨ s.behind a = .readOnly) :
    s.busRead a k = .ok (s.readByte a) := by
  rcases hb with hb | hb <;> simp only [State.busRead, hf, hb]

theorem busRead_of_redirect {b : Word} (hf : s.busFailure k a = none) (hb : s.behind a = .redirect b) :
    s.busRead a k = .ok (s.readByte b) := by
  simp only [State.busRead, hf, hb]

/-- What is no memory answers a read by what the bus has been asked alone. -/
theorem busRead_of_external (hf : s.busFailure k a = none) (hb : s.behind a = .external) :
    s.busRead a k = (Config.externalRead s.asked k a).mapError (BusFailure.mk k a) := by
  simp only [State.busRead, hf, hb]
  cases Config.externalRead s.asked k a <;> rfl

/-- What is memory or a mirror of it accepts every write that is not always failed. -/
theorem busWrite_of_not_external (v : Byte) (hf : s.busFailure k a = none) (hb : s.behind a ≠ .external) :
    s.busWrite a v k = .ok (s.stored a v) := by
  cases h : s.behind a with
  | external => exact absurd h hb
  | ram | readOnly | redirect b => simp only [State.busWrite, hf, h]

/-- What is no memory takes or fails a write by what the bus has been asked alone. -/
theorem busWrite_of_external (v : Byte) (hf : s.busFailure k a = none) (hb : s.behind a = .external) :
    s.busWrite a v k = (Config.externalWrite s.asked k a v).elim (.ok s.mem) fun report => .error ⟨k, a, report⟩ := by
  simp only [State.busWrite, State.stored, hf, hb]
  cases Config.externalWrite s.asked k a v <;> rfl

theorem stored_of_ram (v : Byte) (hb : s.behind a = .ram) : s.stored a v = (s.writeByte a v).mem := by
  simp only [State.stored, hb, State.writeByte_mem]

theorem stored_of_readOnly (v : Byte) (hb : s.behind a = .readOnly) : s.stored a v = s.mem := by
  simp only [State.stored, hb]

theorem stored_of_redirect {b : Word} (v : Byte) (hb : s.behind a = .redirect b) :
    s.stored a v = (s.writeByte b v).mem := by
  simp only [State.stored, hb, State.writeByte_mem]

theorem stored_of_external (v : Byte) (hb : s.behind a = .external) : s.stored a v = s.mem := by
  simp only [State.stored, hb]

end

/-- Settles O6: `fetch_ok_iff` and `fetch_error_iff`. -/
theorem fetchReadsThenIncrements : Obligations.FetchReadsThenIncrements := fun _ =>
  ⟨fun _ h => fetch_ok_iff.2 ⟨h, rfl⟩, fun f h => fetch_error_iff.2 ⟨f, h, rfl⟩⟩

/-- Settles O8: the access laws of `memRead` and `memWrite`, then one law per thing that may stand behind an address. -/
theorem busReadsAndWritesOneByte : Obligations.BusReadsAndWritesOneByte := by
  intro a v s
  refine ⟨fun b h => memRead_ok_iff.2 ⟨h, rfl⟩, fun f h => memRead_error_iff.2 ⟨f, h, rfl⟩,
    fun m h => memWrite_ok_iff.2 ⟨m, h, rfl⟩, fun f h => memWrite_error_iff.2 ⟨f, h, rfl⟩,
    fun f => busRead_of_failure, fun f => busWrite_of_failure, fun hf => ⟨?_, ?_, ?_⟩, fun hf => ⟨?_, ?_, ?_, ?_⟩,
    behind_of_noWindows⟩
  · exact busRead_of_memory hf
  · exact fun b => busRead_of_redirect hf
  · intro hb t htb htf hasked
    rw [busRead_of_external hf hb, busRead_of_external htf htb, hasked]
  · intro hb
    rw [busWrite_of_not_external v hf (by simp [hb]), stored_of_ram v hb]
  · intro hb
    rw [busWrite_of_not_external v hf (by simp [hb]), stored_of_readOnly v hb]
  · intro b hb
    rw [busWrite_of_not_external v hf (by simp [hb]), stored_of_redirect v hb]
  · refine fun hb => ⟨fun m h => (busWrite_ok h).trans (stored_of_external v hb), fun t htb htf hasked f => ?_⟩
    rw [busWrite_of_external v hf hb, busWrite_of_external v htf htb, hasked]
    cases Config.externalWrite s.asked .write a v <;> simp

/-- On the plain-RAM bus a write remembered by the bus is read back there, and every other read is as before. -/
theorem busRead_after_write {s : State} (h : s.plainRam) (a : Word) (v : Byte) (acc : BusAccess) :
    ((s.writeByte a v).logAccess acc).busRead a = .ok v ∧
      ∀ b, b ≠ a → ((s.writeByte a v).logAccess acc).busRead b = s.busRead b := by
  have ht : ((s.writeByte a v).logAccess acc).plainRam := h
  refine ⟨?_, fun b hb => ?_⟩
  · rw [busRead_of_plain ht, State.logAccess_readByte, State.writeByte_readByte_same]
  · rw [busRead_of_plain ht, busRead_of_plain h, State.logAccess_readByte, State.writeByte_readByte_other _ _ _ _ hb]

/-- Settles O9: the laws of `writeByte`, which the core's writes and another agent's come to on the plain-RAM bus. -/
theorem readAfterWrite : Obligations.ReadAfterWrite := by
  intro s a v
  refine ⟨⟨s.writeByte_readByte_same a v, fun b => s.writeByte_readByte_other a b v⟩, fun h => ?_, fun h => ?_, ?_, ?_⟩
  · exact ⟨_, memWrite_of_plain h a v, busRead_after_write h a v _⟩
  · obtain ⟨hsame, hother⟩ := busRead_after_write h a v ⟨.foreignWrite, a, v⟩
    have ht : ((s.writeByte a v).logAccess ⟨.foreignWrite, a, v⟩).plainRam := h
    refine ⟨_, foreignWrite_of_plain h a v, hsame, ?_, hother⟩
    rw [foreignRead_of_plain ht, State.logAccess_readByte, State.writeByte_readByte_same]
  · obtain ⟨m, -, hm⟩ := foreignWrite_state a v s
    exact ⟨m, hm⟩
  · exact foreignRead_state a s

/-! ### The stack -/

theorem pushed_frame (s : State) (v : Byte) : Frame [.sp] [] [stackAddress s.sp] s (s.pushed v) :=
  ⟨fun _ hr => State.pushedTo_reg_other s v _ (by simpa using hr), fun _ _ => rfl,
    fun _ ha => State.pushed_readByte_other s v (by simpa using ha), rfl⟩

theorem popped_frame (s : State) : Frame [.sp] [] [] s s.popped :=
  ⟨fun _ hr => State.poppedAs_reg_other s _ (by simpa using hr), fun _ _ => rfl, fun _ _ => rfl, rfl⟩

/-- Settles O10: `push_ok_iff` and `push_error_iff`; on the plain-RAM bus the state left is `State.pushed`. -/
theorem pushWritesThenIncrements : Obligations.PushWritesThenIncrements := fun v s =>
  ⟨stackAddress_toNat s.sp, fun m h => push_ok_iff.2 ⟨m, h, rfl⟩, fun f h => push_error_iff.2 ⟨f, h, rfl⟩,
    fun h => ⟨_, push_of_plain h v, State.pushed_readByte_same s v, pushed_frame s v⟩⟩

/-- Settles O11: `pop_ok_iff` and `pop_error_iff`; on the plain-RAM bus the state left is `State.popped`. -/
theorem popDecrementsThenReads : Obligations.PopDecrementsThenReads := fun s =>
  ⟨fun _ h => pop_ok_iff.2 ⟨h, rfl⟩, fun f h => pop_error_iff.2 ⟨f, h, rfl⟩,
    fun h => ⟨_, pop_of_plain h, popped_frame s⟩⟩

/-- The last address of the stack page (20_memory.md R64). -/
theorem stackAddress_top : stackAddress 0xFF = 0x01FF := rfl

theorem pushDiags_of_ne {sp : Byte} (h : sp ≠ 0xFF#8) : pushDiags sp = [] := if_neg h

theorem popDiags_of_ne {sp : Byte} (h : sp ≠ 0x00#8) : popDiags sp = [] := if_neg h

/-- Settles O12: the states a push and a pop leave on the plain-RAM bus, at the two ends of the stack page and between. -/
theorem stackWrapsWithADiagnostic : Obligations.StackWrapsWithADiagnostic := by
  intro v s h
  refine ⟨fun hsp => ?_, fun hsp => ?_, fun hsp => ?_, fun hsp => ?_⟩
  · have hread := State.pushed_readByte_same s v
    rw [hsp, stackAddress_top] at hread
    exact ⟨_, push_of_plain h v, by simp [hsp], hread, by simp [pushDiags, hsp]⟩
  · exact ⟨_, push_of_plain h v, by rw [State.pushed_diags, pushDiags_of_ne hsp, List.append_nil]⟩
  · have hpop := pop_of_plain h
    rw [hsp, show stackAddress (0x00 - 1) = 0x01FF from stackAddress_top] at hpop
    exact ⟨_, hpop, by simp [hsp], by simp [popDiags, hsp]⟩
  · exact ⟨_, _, pop_of_plain h, by rw [State.popped_diags, popDiags_of_ne hsp, List.append_nil]⟩

end Sys2Proof.Machine
end

section
/-! PROOF. The encoding: the decoder reads the encoder's bytes back, and reads nothing else as that instruction
(30_encoding.md R100, R102, R111). -/

namespace Sys2Proof

/-! ### The decoder, one equation per form of an opcode byte -/

section
variable {op : Byte} (rest : List Byte)

theorem decode_of_unassigned (h : opcodeMap op = none) : decode (op :: rest) = .error (.unassigned op) := by
  simp only [decode, h]

theorem decode_of_noOperand {i : Instr} (h : opcodeMap op = some (.noOperand i)) : decode (op :: rest) = .ok (i, rest) := by
  simp only [decode, h]

theorem decode_of_byteOperand {f : Byte → Instr} (h : opcodeMap op = some (.byteOperand f)) (b : Byte) :
    decode (op :: b :: rest) = .ok (f b, rest) := by
  simp only [decode, h]

theorem decode_of_wordOperand {f : Word → Instr} (h : opcodeMap op = some (.wordOperand f)) (lo hi : Byte) :
    decode (op :: lo :: hi :: rest) = .ok (f (joinBytes hi lo), rest) := by
  simp only [decode, h]

end

/-- What the decoder answers: the opcode byte selects a form, and the operand bytes that the form asks for follow. -/
theorem decode_ok {bs rest : List Byte} {i : Instr} (h : decode bs = .ok (i, rest)) :
    (∃ op, opcodeMap op = some (.noOperand i) ∧ bs = op :: rest) ∨
    (∃ op f b, opcodeMap op = some (.byteOperand f) ∧ f b = i ∧ bs = op :: b :: rest) ∨
    (∃ op f lo hi, opcodeMap op = some (.wordOperand f) ∧ f (joinBytes hi lo) = i ∧ bs = op :: lo :: hi :: rest) := by
  cases bs with
  | nil => simp [decode] at h
  | cons op tail =>
    cases hop : opcodeMap op with
    | none => simp [decode_of_unassigned tail hop] at h
    | some form =>
      cases form with
      | noOperand j =>
        rw [decode_of_noOperand tail hop] at h
        obtain ⟨rfl, rfl⟩ := Prod.mk.inj (Except.ok.inj h)
        exact .inl ⟨op, hop, rfl⟩
      | byteOperand f =>
        match tail with
        | [] => simp [decode, hop] at h
        | b :: tail =>
          rw [decode_of_byteOperand tail hop] at h
          obtain ⟨rfl, rfl⟩ := Prod.mk.inj (Except.ok.inj h)
          exact .inr (.inl ⟨op, f, b, hop, rfl, rfl⟩)
      | wordOperand f =>
        match tail with
        | [] | [_] => simp [decode, hop] at h
        | lo :: hi :: tail =>
          rw [decode_of_wordOperand tail hop] at h
          obtain ⟨rfl, rfl⟩ := Prod.mk.inj (Except.ok.inj h)
          exact .inr (.inr ⟨op, f, lo, hi, hop, rfl, rfl⟩)

end Sys2Proof

namespace Sys2Proof.Machine

/-- Settles O2: the opcode byte of an instruction selects it (`opcodeMap_opcode`), and a word operand is put together
from the two bytes it was taken apart into. -/
theorem decodeOfEncodeIsTheInstruction : Obligations.DecodeOfEncodeIsTheInstruction := by
  intro i rest
  rcases opcodeMap_opcode i with ⟨hop, he⟩ | ⟨f, b, hop, rfl, he⟩ | ⟨f, w, hop, rfl, he⟩
  · rw [he]
    exact decode_of_noOperand rest hop
  · rw [he]
    exact decode_of_byteOperand rest hop b
  · have hdecode := decode_of_wordOperand rest hop (loByte w) (hiByte w)
    rw [joinBytes_hiByte_loByte] at hdecode
    rw [he]
    exact hdecode

/-- Settles O3: of what an opcode byte selects, that byte and the operand bytes are the encoding (`opcodeMap_entry`). -/
theorem encodeOfDecodeIsTheBytes : Obligations.EncodeOfDecodeIsTheBytes := by
  intro bs i rest h
  rcases decode_ok h with ⟨op, hop, rfl⟩ | ⟨op, f, b, hop, rfl, rfl⟩ | ⟨op, f, lo, hi, hop, rfl, rfl⟩
  · obtain ⟨-, he, -⟩ : OpcodeEntry op (some (.noOperand i)) := hop ▸ opcodeMap_entry op
    rw [he, List.singleton_append]
  · obtain ⟨-, he⟩ : OpcodeEntry op (some (.byteOperand f)) := hop ▸ opcodeMap_entry op
    rw [(he b).1]
    rfl
  · obtain ⟨-, he⟩ : OpcodeEntry op (some (.wordOperand f)) := hop ▸ opcodeMap_entry op
    rw [(he _).1, loByte_joinBytes, hiByte_joinBytes]
    rfl

/-- Settles O1: closed words, which the decoder evaluates. -/
theorem writtenOutWordsDecode : Obligations.WrittenOutWordsDecode :=
  ⟨rfl, rfl, rfl, rfl, rfl, rfl, rfl, rfl, rfl, rfl, rfl, rfl, rfl⟩

end Sys2Proof.Machine
end

section
/-! PROOF. The addressing-mode resolver (30_encoding.md R114, R120 to R122; 20_memory.md R68). -/

namespace Sys2Proof.Machine

/-- A mode with no address is an internal error (30_encoding.md R114). -/
theorem resolveAddress_of_not_addressable {o : Operand} (ho : addressable o.mode = false) (s : State) :
    resolveAddress o s = .error (.illegalMode o.mode) := by
  cases o with
  | implied | accumulator | immediate v | relative off => rfl
  | _ => cases ho

/-! ### Addresses as numbers -/

theorem indexed_ea_toNat (w : Word) (i : Byte) : (indexed w i).ea.toNat = (w.toNat + i.toNat) % 65536 := by
  rw [indexed, BitVec.toNat_add, zext_toNat]

theorem zext_add_toNat (z i : Byte) : (zext (z + i)).toNat = (z.toNat + i.toNat) % 256 := by
  rw [zext_toNat, BitVec.toNat_add]

/-- A sum in the zero page, as a number (30_encoding.md R120). -/
theorem ofNat_zext_add (z i : Byte) : BitVec.ofNat 16 ((z.toNat + i.toNat) % 256) = zext (z + i) := by
  rw [← zext_add_toNat, BitVec.ofNat_toNat, BitVec.setWidth_eq]

/-- The address of the high byte of a zero-page pointer, as a number (20_memory.md R68). -/
theorem ofNat_zext_succ (z : Byte) : BitVec.ofNat 16 ((z.toNat + 1) % 256) = zext (z + 1) := ofNat_zext_add z 1

theorem ofNat_zext_add_succ (z i : Byte) : BitVec.ofNat 16 ((z.toNat + i.toNat + 1) % 256) = zext (z + i + 1) := by
  rw [← ofNat_zext_succ, BitVec.toNat_add, Nat.mod_add_mod]

/-- Settles O15: on the plain-RAM bus the resolver answers `resolvedAs` and reads `pointerReads`; what is left is that the
sums of words are the sums of numbers with their wrapping. -/
theorem effectiveAddressOfEachMode : Obligations.EffectiveAddressOfEachMode := by
  intro s h
  refine ⟨fun z => ⟨_, rfl, zext_toNat z, rfl⟩, fun z => ⟨_, rfl, zext_add_toNat z s.x, rfl⟩,
    fun z => ⟨_, rfl, zext_add_toNat z s.y, rfl⟩, fun w => ⟨_, rfl, rfl, rfl⟩,
    fun w => ⟨_, rfl, indexed_ea_toNat w s.x, indexed_crossed w s.x⟩,
    fun w => ⟨_, rfl, indexed_ea_toNat w s.y, indexed_crossed w s.y⟩,
    fun z => ⟨_, _, resolveAddress_of_plain rfl h, ?_⟩, fun z => ⟨_, _, resolveAddress_of_plain rfl h, ?_⟩,
    fun w => ⟨_, _, resolveAddress_of_plain rfl h, ?_⟩⟩
  · rw [ofNat_zext_add, ofNat_zext_add_succ]
    exact ⟨joinBytes_toNat _ _, rfl, rfl⟩
  · rw [ofNat_toNat_zext, ofNat_zext_succ]
    dsimp only
    rw [← joinBytes_toNat]
    exact ⟨indexed_ea_toNat _ s.y, indexed_crossed _ s.y, rfl⟩
  · rw [ofNat_bugHiAddress]
    exact ⟨joinBytes_toNat _ _, rfl, rfl⟩

/-- Where the resolver answers, `Operand` is one bus read at its address (30_encoding.md R121). -/
theorem resolveOperand_of_resolved {o : Operand} {s s1 : State} {r : Resolved} (ho : o.mode ≠ .immediate)
    (hr : resolveAddress o s = .ok (r, s1)) :
    resolveOperand o s = (memRead r.ea s1).map fun b => (⟨b.1, r.crossed⟩, b.2) := by
  rw [resolveOperand_eq ho, hr, ok_bind]
  dsimp only
  cases memRead r.ea s1 <;> rfl

/-- Settles O16: `Operand` is the resolver (`resolveOperand_eq`), then one bus read. -/
theorem operandIsImmediateOrRead : Obligations.OperandIsImmediateOrRead := by
  intro s
  refine ⟨fun v => rfl, fun o r s1 ho hr => ⟨fun b hb => ?_, fun f hf => ?_⟩, fun o e ho he => ?_, fun o ho => ?_⟩
  · rw [resolveOperand_of_resolved ho hr, memRead_ok_iff.2 ⟨hb, rfl⟩]
    rfl
  · rw [resolveOperand_of_resolved ho hr, memRead_error_iff.2 ⟨f, hf, rfl⟩]
    rfl
  · rw [resolveOperand_eq ho, he, error_bind]
  · have hmode : o.mode ≠ .immediate ∧ addressable o.mode = false := by
      rcases ho with ho | ho | ho <;> rw [ho] <;> decide
    rw [resolveOperand_eq hmode.1, resolveAddress_of_not_addressable hmode.2, error_bind]

/-- Settles O17: a step is a run (`fetchAndRun_runs`), which DecodeFault or BusFault ends and nothing else. -/
theorem illegalModeIsNeverReached : Obligations.IllegalModeIsNeverReached := by
  refine ⟨fun s v off => ⟨resolveAddress_of_not_addressable rfl s, resolveAddress_of_not_addressable rfl s,
    resolveAddress_of_not_addressable rfl s, resolveAddress_of_not_addressable rfl s⟩, fun s m h => ?_⟩
  rw [step_eq] at h
  rcases (fetchAndRun_runs s.clearOutputs).error _ (finish_fault.1 h) with ⟨op, a, left, e⟩ | ⟨b, tr, acc, u, e, -⟩ <;>
    cases e

end Sys2Proof.Machine
end

section
/-! PROOF. Fetch, decode, dispatch: what a step does with the bytes at PC (30_encoding.md R100, R110, R112). -/

namespace Sys2Proof.Machine

theorem step_of_fetched {s t : State} {i : Instr} (h : fetchInstr s.clearOutputs = .ok (i, t)) : step s = exec i t := by
  simp only [step, h]

theorem step_of_fetch_error {s : State} {f : Fault} (h : fetchInstr s.clearOutputs = .error f) : step s = .fault f := by
  simp only [step, h]

/-! ### DecodeFault -/

/-- The opcode map has no entry exactly for the 105 unassigned bytes (30_encoding.md R112). -/
theorem opcodeMap_eq_none_iff {op : Byte} : opcodeMap op = none ↔ op ∈ unassignedBytes := by
  have he := opcodeMap_entry op
  cases hop : opcodeMap op with
  | none =>
    rw [hop] at he
    exact ⟨fun _ => he, fun _ => rfl⟩
  | some form =>
    rw [hop] at he
    have hassigned : op ∉ unassignedBytes := by cases form <;> exact he.1
    simp [hassigned]

/-- Fetching from an unassigned byte ends in DecodeFault, with that one read made and PC restored (60_exceptions.md R501). -/
theorem fetchInstr_of_unassigned {s : State} {op : Byte} (hr : s.busRead s.pc = .ok op) (h : op ∈ unassignedBytes) :
    fetchInstr s = .error (.decodeFault op s.pc (s.logAccess ⟨.read, s.pc, op⟩)) := by
  rw [fetchInstr, fetch_ok_iff.2 ⟨hr, rfl⟩, ok_bind]
  simp only [opcodeMap_eq_none_iff.2 h]
  rfl

theorem step_decodeFault {s left : State} {op : Byte} {a : Word} (h : step s = .fault (.decodeFault op a left)) :
    fetchInstr s.clearOutputs = .error (.decodeFault op a left) := by
  rw [step_eq] at h
  exact fetchAndRun_decodeFault (finish_fault.1 h)

/-- Settles O5: the fetch raises DecodeFault on the bytes the opcode map leaves out, and nothing else of a step raises it. -/
theorem decodeFaultExactlyOnUnassignedBytes : Obligations.DecodeFaultExactlyOnUnassignedBytes := by
  refine fun s op hr => ⟨fun h => ?_, fun h op' a left hstep => ?_⟩
  · have hstep : step s = .fault (.decodeFault op s.pc (s.clearOutputs.logAccess ⟨.read, s.pc, op⟩)) :=
      step_of_fetch_error (fetchInstr_of_unassigned hr h)
    refine ⟨_, hstep, rfl, ?_⟩
    simp only [Session.next, act, hstep, stateAfter_decodeFault]
    rfl
  · obtain ⟨hr', -, -, h'⟩ := fetchInstr_decodeFault (step_decodeFault hstep)
    obtain rfl := Except.ok.inj (hr.symm.trans hr')
    exact h h'

/-! ### A step from the bytes of an instruction -/

/-- When the bus serves the bytes of `i` from PC on, a step is exec of `i` with PC past them. -/
theorem step_of_served {s u : State} {i : Instr} (hu : s.clearOutputs.serve (fetchTrace s.pc (encode i)) = .ok u) :
    step s = exec i { u with pc := s.pc + BitVec.ofNat 16 i.length } :=
  step_of_fetched (fetchInstr_ok_iff.2 ⟨u, hu, rfl⟩)

/-- Settles O4: `step_of_served`, and the bus serves the bytes of RAM (`serve_bytesAt`). -/
theorem stepRunsTheDecodedInstruction : Obligations.StepRunsTheDecodedInstruction := by
  refine ⟨fun s u i hu => ⟨?_, step_of_served hu⟩, fun s i rest hw hdecode hfail => ?_⟩
  · rw [(serve_ok hu).1]
    rfl
  · have hbytes : encode i = s.clearOutputs.bytesAt s.pc i.length := bytesAt_of_decode (s := s.clearOutputs) hdecode
    rw [hbytes] at hfail
    have hserve := serve_bytesAt (s := s.clearOutputs) hw s.pc i.length hfail
    rw [← hbytes] at hserve
    rw [step_of_served hserve]
    rfl

/-! ### An instruction placed by withFetchWord -/

theorem fetchTrace_prefix (a : Word) (bs cs : List Byte) : fetchTrace a bs <+: fetchTrace a (bs ++ cs) := by
  induction bs generalizing a with
  | nil => exact List.nil_prefix
  | cons b bs ih => exact List.cons_prefix_cons.2 ⟨rfl, ih (a + 1)⟩

/-- The accesses of a fetch are no further from its first address than it is long. -/
theorem fetchTrace_distance {a : Word} {bs : List Byte} {acc : BusAccess} (h : acc ∈ fetchTrace a bs) :
    (acc.address - a).toNat < bs.length := by
  induction bs generalizing a with
  | nil => cases h
  | cons b bs ih =>
    rw [List.length_cons]
    rcases List.mem_cons.1 h with rfl | h
    · simp
    · have := ih h
      bv_omega

/-- A fetch from addresses that are RAM, are not always failed and hold the bytes is served. -/
theorem serve_fetchTrace_of_ram {s : State} {a : Word} {bs : List Byte}
    (h : ∀ acc ∈ fetchTrace a bs, s.busFailure .read acc.address = none ∧ s.behind acc.address = .ram ∧
      s.readByte acc.address = acc.value) : ∃ u, s.serve (fetchTrace a bs) = .ok u := by
  induction bs generalizing s a with
  | nil => exact ⟨s, rfl⟩
  | cons b bs ih =>
    obtain ⟨hfail, hram, hread⟩ := h ⟨.read, a, b⟩ List.mem_cons_self
    obtain ⟨u, hu⟩ := ih (s := s.logAccess ⟨.read, a, b⟩) (a := a + 1) fun acc hacc => h acc (List.mem_cons_of_mem _ hacc)
    exact ⟨u, serve_fetchTrace_cons.2 ⟨by rw [busRead_of_memory hfail (.inl hram), hread], hu⟩⟩

theorem serve_p {s u : State} {tr : List BusAccess} (h : s.serve tr = .ok u) : u.p = s.p :=
  (congrArg State.p (serve_ok h).1 :)

theorem serve_reg {s u : State} {tr : List BusAccess} (h : s.serve tr = .ok u) (r : Reg) : u.reg r = s.reg r := by
  rw [(serve_ok h).1]
  cases r <;> rfl

/-! #### Storing the bytes -/

@[simp] theorem State.onBusOf_p (s bus : State) : (s.onBusOf bus).p = s.p := rfl
@[simp] theorem State.onBusOf_pc (s bus : State) : (s.onBusOf bus).pc = s.pc := rfl

theorem storeBytes_onBusOf (s : State) (a : Word) (bs : List Byte) :
    s.storeBytes a bs = s.onBusOf (s.storeBytes a bs) := by
  induction bs generalizing s a with
  | nil => rfl
  | cons b bs ih =>
    rw [State.storeBytes, ih]
    rfl

/-- Bytes stored leave an address that is further on than they are long alone. -/
theorem storeBytes_readByte_other {s : State} {a b : Word} {bs : List Byte} (h : bs.length ≤ (b - a).toNat) :
    (s.storeBytes a bs).readByte b = s.readByte b := by
  induction bs generalizing s a with
  | nil => rfl
  | cons v bs ih =>
    rw [List.length_cons] at h
    have hne : b ≠ a := by
      rintro rfl
      simp at h
    rw [State.storeBytes, ih (by bv_omega), State.writeByte_readByte_other _ _ _ _ hne]

/-- Bytes stored are what memory holds there, if they do not go around the whole of memory. -/
theorem storeBytes_readByte {s : State} {a : Word} {bs : List Byte} (hlen : bs.length ≤ 65536) :
    ∀ acc ∈ fetchTrace a bs, (s.storeBytes a bs).readByte acc.address = acc.value := by
  induction bs generalizing s a with
  | nil => nofun
  | cons v bs ih =>
    intro acc hacc
    rw [List.length_cons] at hlen
    rcases List.mem_cons.1 hacc with rfl | hacc
    · have hlast : bs.length ≤ (a - (a + 1)).toNat := by bv_omega
      rw [State.storeBytes, storeBytes_readByte_other hlast, State.writeByte_readByte_same]
    · exact ih (by omega) acc hacc

/-! #### The state it leaves -/

/-- The placing changes nothing but the bus. -/
theorem withFetchWord_onBusOf (s : State) (nbits w : Nat) :
    s.withFetchWord nbits w = s.onBusOf (s.withFetchWord nbits w) := by
  rw [State.withFetchWord, storeBytes_onBusOf]
  rfl

theorem withFetchWord_reg (s : State) (nbits w : Nat) (r : Reg) : (s.withFetchWord nbits w).reg r = s.reg r := by
  rw [withFetchWord_onBusOf, State.onBusOf_reg]

theorem withFetchWord_p (s : State) (nbits w : Nat) : (s.withFetchWord nbits w).p = s.p := by
  rw [withFetchWord_onBusOf, State.onBusOf_p]

theorem withFetchWord_pc (s : State) (nbits w : Nat) : (s.withFetchWord nbits w).pc = s.pc := by
  rw [withFetchWord_onBusOf, State.onBusOf_pc]

/-- The reads of the placed bytes are let through. -/
theorem withFetchWord_busFailure (s : State) (nbits w : Nat) {a : Word} (ha : (a - s.pc).toNat < maxInstrLength) :
    (s.withFetchWord nbits w).busFailure .read a = none := by
  simp only [State.busFailure, State.withFetchWord, List.find?_eq_none, List.mem_filter]
  rintro f ⟨-, hf⟩ hacc
  obtain ⟨hkind, rfl⟩ := of_decide_eq_true hacc
  rw [decide_eq_true ⟨hkind, ha⟩] at hf
  cases hf

/-- RAM is put behind the placed bytes. -/
theorem withFetchWord_behind (s : State) (nbits w : Nat) {a : Word} (ha : (a - s.pc).toNat < maxInstrLength) :
    (s.withFetchWord nbits w).behind a = .ram := by
  simp only [State.behind, State.withFetchWord]
  cases (s.storeBytes s.pc (tableWordBytes nbits w)).windows with
  | nil => rfl
  | cons x xs =>
    have hholds : BusWindow.holds ⟨s.pc, maxInstrLength, .ram⟩ a = true := decide_eq_true ha
    simp [hholds]

/-- Memory holds the placed bytes. -/
theorem withFetchWord_readByte (s : State) (nbits w : Nat) :
    ∀ acc ∈ fetchTrace s.pc (tableWordBytes nbits w), (s.withFetchWord nbits w).readByte acc.address = acc.value :=
  storeBytes_readByte (by simp [tableWordBytes])

/-- The placed bytes are served to the next step. -/
theorem withFetchWord_serve (s : State) (nbits w : Nat) :
    ∃ u, (s.withFetchWord nbits w).clearOutputs.serve (fetchTrace s.pc (tableWordBytes nbits w)) = .ok u := by
  refine serve_fetchTrace_of_ram fun acc hacc => ?_
  have hat : (acc.address - s.pc).toNat < maxInstrLength := fetchTrace_distance hacc
  rw [State.clearOutputs_busFailure, State.clearOutputs_behind, State.clearOutputs_readByte]
  exact ⟨withFetchWord_busFailure s nbits w hat, withFetchWord_behind s nbits w hat, withFetchWord_readByte s nbits w acc hacc⟩

theorem decodeTableWord_eq_some {nbits w : Nat} {i : Instr} (h : decodeTableWord nbits w = some i) :
    ∃ rest, decode (tableWordBytes nbits w) = .ok (i, rest) := by
  unfold decodeTableWord at h
  split at h
  · rename_i j rest hj
    obtain rfl := Option.some.inj h
    exact ⟨rest, hj⟩
  · cases h

/-- Settles O7: the placed bytes begin with the encoding of `i`, the bus serves them, and fetching touches no register. -/
theorem placedInstructionRunsNext : Obligations.PlacedInstructionRunsNext := by
  intro s nbits w i h
  obtain ⟨rest, hdecode⟩ := decodeTableWord_eq_some h
  obtain ⟨v, hv⟩ := withFetchWord_serve s nbits w
  obtain ⟨tr, htr⟩ := fetchTrace_prefix s.pc (encode i) rest
  rw [encodeOfDecodeIsTheBytes _ _ _ hdecode, ← htr, serve_append] at hv
  obtain ⟨u, hu, -⟩ := bind_ok.1 hv
  have hpc := withFetchWord_pc s nbits w
  refine ⟨_, step_of_served (u := u) (by rwa [hpc]), by rw [hpc], ?_, fun r => ?_⟩
  · calc
      u.p = (s.withFetchWord nbits w).p := (serve_p hu).trans (State.clearOutputs_p _)
      _ = s.p := withFetchWord_p s nbits w
  · calc
      _ = u.reg r := State.setPC_reg u _ r
      _ = (s.withFetchWord nbits w).reg r := (serve_reg hu r).trans (State.clearOutputs_reg _ r)
      _ = s.reg r := withFetchWord_reg s nbits w r

end Sys2Proof.Machine
end

section
/-! PROOF. Loads and stores (40_loads_stores.md R200 to R206). -/

namespace Sys2Proof.Machine

/-! ### What every instruction law needs -/

/-- Only a failed bus access stops an instruction: its rule is a run with no fault of its own (`instr_runs`). -/
theorem instr_onlyBusFaults (i : Instr) (s : State) : OnlyBusFaults i s := by
  intro f h
  rw [exec_eq_rule] at h
  rcases (instr_runs (E := fun _ => False) i s).error f (finish_fault.1 h) with hf | ⟨b, tr, acc, u, rfl, -⟩
  · exact hf.elim
  · exact ⟨b, _, rfl⟩

/-- A frame from `WritesOnly`, which leaves memory and the bus open. -/
theorem WritesOnly.frame {regs : List Reg} {flags flags' : List Flag} {stored : List Word} {jumps : Bool} {s t : State}
    (h : WritesOnly regs flags jumps s t) (hflags : flags ⊆ flags') (hbus : t.busSetup = s.busSetup)
    (hmem : ∀ a, a ∉ stored → t.readByte a = s.readByte a) : Frame regs flags' stored s t :=
  ⟨h.registers, fun f hf => h.statusBits f fun hin => hf (hflags hin), hmem, hbus⟩

section
variable {mn : Mnemonic} {o : Operand} {s : State}

/-! ### Loads -/

/-- The state a load leaves on the plain-RAM bus. -/
def State.loaded (s : State) (mn : Mnemonic) (r : Reg) (o : Operand) : State :=
  (((s.withReads (operandReads o s)).setReg r (operandAs o s).value).setNZ (operandAs o s).value).charge mn o.mode
    (pageCrossExtra mn o.mode (operandAs o s).crossed)

theorem loadReg_of_plain (r : Reg) (ho : readable o.mode = true) (h : s.plainRam) :
    loadReg mn r o s = .ok (s.loaded mn r o) := by
  rw [loadReg, resolveOperand_of_plain ho h]
  rfl

theorem State.loaded_reg (s : State) (mn : Mnemonic) (r : Reg) (o : Operand) :
    (s.loaded mn r o).reg r = (operandAs o s).value := by
  simp [State.loaded, State.setReg_reg_same]

theorem State.loaded_p (s : State) (mn : Mnemonic) (r : Reg) (o : Operand) :
    (s.loaded mn r o).p = Machine.setNZ s.p (operandAs o s).value := by
  simp [State.loaded]

/-- The rule `loadReg` is a load law for each mnemonic that has it. -/
theorem loadLaw_of_rule {r : Reg} (hrule : ∀ o, ruleOf mn o = loadReg mn r o) (hmn : mn ∈ operandReaders) :
    LoadLaw mn r := by
  refine fun i s hi => ⟨instr_onlyBusFaults i s, fun h => ?_⟩
  have ho : readable i.operand.mode = true := readable_of_legal hmn (legal_of_mnemonic hi)
  have hload : loadReg mn r i.operand s = .ok (s.loaded mn r i.operand) := loadReg_of_plain r ho h
  have hexec : exec i s = .next (s.loaded mn r i.operand) := by rw [exec_of_mnemonic hi, hrule, hload, finish_ok]
  have hw : WritesOnly [r] [.z, .n] false s (s.loaded mn r i.operand) := loadReg_writesOnly hload
  refine ⟨_, _, _, resolveOperand_of_plain ho h, hexec, State.loaded_reg s mn r _, ?_, ?_,
    hw.frame (by simp) (by simp [State.loaded]) (fun a _ => by simp [State.loaded]), hw.pc rfl,
    by simp [State.loaded], by simp [State.loaded]⟩
  · rw [State.flag, State.loaded_p, getFlag_setNZ_n]
  · rw [State.flag, State.loaded_p, getFlag_setNZ_z]

/-! ### Stores -/

/-- The state a store leaves on the plain-RAM bus. -/
def State.storedReg (s : State) (mn : Mnemonic) (r : Reg) (o : Operand) : State :=
  (((s.withReads (pointerReads o s)).writeByte (resolvedAs o s).ea (s.reg r)).logAccess
    ⟨.write, (resolvedAs o s).ea, s.reg r⟩).charge mn o.mode (pageCrossExtra mn o.mode (resolvedAs o s).crossed)

theorem storeReg_of_plain (r : Reg) (ho : addressable o.mode = true) (h : s.plainRam) :
    storeReg mn r o s = .ok (s.storedReg mn r o) := by
  rw [storeReg, resolveAddress_of_plain ho h, ok_bind]
  dsimp only
  rw [memWrite_of_plain (s := s.withReads (pointerReads o s)) h, State.withReads_reg]
  rfl

theorem State.storedReg_readByte (s : State) (mn : Mnemonic) (r : Reg) (o : Operand) (a : Word) :
    (s.storedReg mn r o).readByte a = if a = (resolvedAs o s).ea then s.reg r else s.readByte a := by
  split
  · subst a
    simp [State.storedReg]
  · rename_i hne
    simp [State.storedReg, State.writeByte_readByte_other _ _ _ _ hne]

/-- The rule `storeReg` is a store law for each mnemonic that has it. -/
theorem storeLaw_of_rule {r : Reg} (hrule : ∀ o, ruleOf mn o = storeReg mn r o) (hmn : mn ∈ addressUsers) :
    StoreLaw mn r := by
  refine fun i s hi => ⟨instr_onlyBusFaults i s, fun h => ?_⟩
  have ho : addressable i.operand.mode = true := addressable_of_legal hmn (legal_of_mnemonic hi)
  have hstore : storeReg mn r i.operand s = .ok (s.storedReg mn r i.operand) := storeReg_of_plain r ho h
  have hexec : exec i s = .next (s.storedReg mn r i.operand) := by rw [exec_of_mnemonic hi, hrule, hstore, finish_ok]
  have hw : WritesOnly [] [] false s (s.storedReg mn r i.operand) := storeReg_writesOnly hstore
  refine ⟨_, _, _, resolveAddress_of_plain ho h, hexec, ?_,
    hw.frame (List.Subset.refl _) (by simp [State.storedReg]) fun a ha => ?_, hw.pc rfl,
    by simp [State.storedReg], by simp [State.storedReg]⟩
  · rw [State.storedReg_readByte, if_pos rfl]
  · rw [State.storedReg_readByte, if_neg (by simpa using ha)]

end

/-- Settles O18: each of the three has the rule `loadReg` (`loadLaw_of_rule`); the forms by computation. -/
theorem loadsSetTheirRegister : Obligations.LoadsSetTheirRegister :=
  ⟨loadLaw_of_rule (fun _ => rfl) (by decide), loadLaw_of_rule (fun _ => rfl) (by decide),
    loadLaw_of_rule (fun _ => rfl) (by decide), hasForms_of_check (by decide), hasForms_of_check (by decide),
    hasForms_of_check (by decide)⟩

/-- Settles O19: each of the three has the rule `storeReg` (`storeLaw_of_rule`); the forms by computation. -/
theorem storesWriteTheirRegister : Obligations.StoresWriteTheirRegister :=
  ⟨storeLaw_of_rule (fun _ => rfl) (by decide), storeLaw_of_rule (fun _ => rfl) (by decide),
    storeLaw_of_rule (fun _ => rfl) (by decide), hasForms_of_check (by decide), hasForms_of_check (by decide),
    hasForms_of_check (by decide)⟩

end Sys2Proof.Machine
end

section
/-! PROOF. Register transfers (41_transfers.md R220 to R226). -/

namespace Sys2Proof.Machine

/-! ### Transfers that set N and Z -/

/-- The state a transfer leaves, on any bus. -/
def State.transferred (s : State) (mn : Mnemonic) (src dst : Reg) : State :=
  ((s.setReg dst (s.reg src)).setNZ (s.reg src)).charge mn .implied 0

theorem transfer_eq (mn : Mnemonic) (src dst : Reg) (s : State) :
    transfer mn src dst s = .ok (s.transferred mn src dst) := rfl

theorem State.transferred_reg (s : State) (mn : Mnemonic) (src dst : Reg) :
    (s.transferred mn src dst).reg dst = s.reg src := by
  simp [State.transferred, State.setReg_reg_same]

theorem State.transferred_p (s : State) (mn : Mnemonic) (src dst : Reg) :
    (s.transferred mn src dst).p = Machine.setNZ s.p (s.reg src) := by
  simp [State.transferred]

/-- The rule `transfer` is a transfer law for each mnemonic that has it. -/
theorem transferLaw_of_rule {mn : Mnemonic} {src dst : Reg} (hrule : ∀ o, ruleOf mn o = transfer mn src dst) :
    TransferLaw mn src dst := by
  intro i s hi
  have hexec : exec i s = .next (s.transferred mn src dst) := by
    rw [exec_of_mnemonic hi, hrule, transfer_eq, finish_ok]
  have hw : WritesOnly [dst] [.z, .n] false s (s.transferred mn src dst) := transfer_writesOnly (transfer_eq mn src dst s)
  refine ⟨_, hexec, State.transferred_reg s mn src dst, ?_, ?_,
    hw.frame (by simp) (by simp [State.transferred]) (fun a _ => by simp [State.transferred]), hw.pc rfl,
    by simp [State.transferred], by simp [State.transferred]⟩
  · rw [State.flag, State.transferred_p, getFlag_setNZ_n]
  · rw [State.flag, State.transferred_p, getFlag_setNZ_z]

/-! ### TXS, which sets no flag -/

/-- The state TXS leaves, on any bus. -/
def State.stackPointerFromX (s : State) : State := (s.setReg .sp (s.reg .x)).charge .txs .implied 0

theorem transferNoFlags_txs (s : State) : transferNoFlags .txs .x .sp s = .ok s.stackPointerFromX := rfl

/-- TXS is its rule: SP is X, and the frame is that of the rule (R225). -/
theorem txs_copiesXToSP (i : Instr) (s : State) (hi : i.mnemonic = .txs) :
    ∃ t, exec i s = .next t ∧ t.sp = s.x ∧ Frame [.sp] [] [] s t ∧ t.pc = s.pc ∧ t.diags = s.diags ∧
      t.accesses = s.accesses := by
  have hexec : exec i s = .next s.stackPointerFromX := by
    rw [exec_of_mnemonic hi, ruleOf, transferNoFlags_txs, finish_ok]
  have hw : WritesOnly [.sp] [] false s s.stackPointerFromX := transferNoFlags_writesOnly (transferNoFlags_txs s)
  exact ⟨_, hexec, rfl, hw.frame (List.Subset.refl _) rfl (fun _ _ => rfl), hw.pc rfl, rfl, rfl⟩

/-- Settles O20: five have the rule `transfer` (`transferLaw_of_rule`), TXS its own; the forms by computation. -/
theorem transfersCopyARegister : Obligations.TransfersCopyARegister :=
  ⟨transferLaw_of_rule fun _ => rfl, transferLaw_of_rule fun _ => rfl, transferLaw_of_rule fun _ => rfl,
    transferLaw_of_rule fun _ => rfl, transferLaw_of_rule fun _ => rfl, txs_copiesXToSP,
    hasForms_of_check (by decide), hasForms_of_check (by decide), hasForms_of_check (by decide),
    hasForms_of_check (by decide), hasForms_of_check (by decide), hasForms_of_check (by decide)⟩

end Sys2Proof.Machine
end

section
/-! PROOF. Arithmetic (42_arithmetic.md R240 to R244). -/

namespace Sys2Proof.Machine

/-! ### The overflow bit -/

/-- R241's formula for V in ADC: the operands have one sign and the result the other. -/
theorem addOverflow_eq_signs (a m r : Byte) :
    addOverflow a m r = ((a.getLsbD 7 == m.getLsbD 7) && (r.getLsbD 7 != a.getLsbD 7)) := by
  simp only [addOverflow, BitVec.getLsbD_and, BitVec.getLsbD_xor]
  cases a.getLsbD 7 <;> cases m.getLsbD 7 <;> cases r.getLsbD 7 <;> rfl

/-- R242's formula for V in SBC: the operands' signs differ and the result's differs from A's. -/
theorem subOverflow_eq_signs (a m r : Byte) :
    subOverflow a m r = ((a.getLsbD 7 != m.getLsbD 7) && (r.getLsbD 7 != a.getLsbD 7)) := by
  simp only [subOverflow, BitVec.getLsbD_and, BitVec.getLsbD_xor]
  cases a.getLsbD 7 <;> cases m.getLsbD 7 <;> cases r.getLsbD 7 <;> rfl

/-! ### The binary results -/

theorem adcBinary_result_toNat (a m : Byte) (c : Bool) :
    (adcBinary a m c).result.toNat = (a.toNat + m.toNat + c.toNat) % 256 := by
  simp [adcBinary]

theorem sbcBinary_result_toNat (a m : Byte) (c : Bool) :
    (sbcBinary a m c).result.toNat = (a.toNat + 256 - m.toNat - (1 - c.toNat)) % 256 := by
  have hc := Bool.toNat_le c
  simp only [sbcBinary, BitVec.toNat_ofNat]
  omega

theorem sbcBinary_carry (a m : Byte) (c : Bool) :
    (sbcBinary a m c).carry = decide (m.toNat + (1 - c.toNat) ≤ a.toNat) := by
  have hc := Bool.toNat_le c
  simp only [sbcBinary, decide_eq_decide]
  omega

/-- R241's V is signed overflow of the sum (00_scope.md R13). -/
theorem adcBinary_overflow (a m : Byte) (c : Bool) : (adcBinary a m c).overflow =
    decide (a.toInt + m.toInt + c.toNat < -128 ∨ a.toInt + m.toInt + c.toNat > 127) := by
  have hc := Bool.toNat_le c
  have hdef : (adcBinary a m c).overflow = addOverflow a m (adcBinary a m c).result := rfl
  rw [hdef, addOverflow_eq_signs, Bool.eq_iff_iff]
  simp only [getLsbD_seven, adcBinary_result_toNat, toInt_byte, Bool.and_eq_true, beq_iff_eq, bne_iff_ne, ne_eq,
    decide_eq_decide, decide_eq_true_eq]
  split <;> split <;> omega

/-- R242's V is signed overflow of the difference (00_scope.md R13). -/
theorem sbcBinary_overflow (a m : Byte) (c : Bool) : (sbcBinary a m c).overflow =
    decide (a.toInt - m.toInt - (1 - c.toNat : Nat) < -128 ∨ a.toInt - m.toInt - (1 - c.toNat : Nat) > 127) := by
  have hc := Bool.toNat_le c
  have hdef : (sbcBinary a m c).overflow = subOverflow a m (sbcBinary a m c).result := rfl
  rw [hdef, subOverflow_eq_signs, Bool.eq_iff_iff]
  simp only [getLsbD_seven, sbcBinary_result_toNat, toInt_byte, Bool.and_eq_true, bne_iff_ne, ne_eq,
    decide_eq_decide, decide_eq_true_eq]
  split <;> split <;> omega

/-! ### The decimal results -/

theorem byteOfDec_mod_toNat (n : Nat) : (byteOfDec (n % 100)).toNat = n % 100 / 10 * 16 + n % 100 % 10 := by
  simp only [byteOfDec, BitVec.toNat_ofNat]
  omega

theorem adcDecimal_result_toNat (a m : Byte) (c : Bool) :
    (adcDecimal a m c).result.toNat =
      (decOfByte a + decOfByte m + c.toNat) % 100 / 10 * 16 + (decOfByte a + decOfByte m + c.toNat) % 100 % 10 :=
  byteOfDec_mod_toNat _

theorem sbcDecimal_carry (a m : Byte) (c : Bool) :
    (sbcDecimal a m c).carry = decide (decOfByte m + (1 - c.toNat) ≤ decOfByte a) := by
  have hc := Bool.toNat_le c
  simp only [sbcDecimal, decide_eq_decide]
  omega

/-- The decimal difference is a difference modulo 100: R242 adds 100 exactly when it is negative. -/
theorem sbcDecimal_result (a m : Byte) (c : Bool) :
    (sbcDecimal a m c).result = byteOfDec ((decOfByte a + 100 - decOfByte m - (1 - c.toNat)) % 100) := by
  have hc := Bool.toNat_le c
  have ha := decOfByte_le a
  have hm := decOfByte_le m
  simp only [sbcDecimal]
  split <;> exact congrArg byteOfDec (by omega)

theorem sbcDecimal_result_toNat (a m : Byte) (c : Bool) :
    (sbcDecimal a m c).result.toNat =
      (decOfByte a + 100 - decOfByte m - (1 - c.toNat)) % 100 / 10 * 16 +
        (decOfByte a + 100 - decOfByte m - (1 - c.toNat)) % 100 % 10 := by
  rw [sbcDecimal_result, byteOfDec_mod_toNat]

/-! ### The laws of the rules -/

section
variable {mn : Mnemonic} {o : Operand} {i : Instr} {s : State} {alu : Bool → Byte → Byte → Bool → AluResult}

/-- The state ADC or SBC leaves on the plain-RAM bus, computing with `alu`. -/
def State.calculated (s : State) (mn : Mnemonic) (alu : Bool → Byte → Byte → Bool → AluResult) (o : Operand) : State :=
  ((s.withReads (operandReads o s)).setArith (alu s.decimalMode s.a (operandAs o s).value (s.flag .c))).charge mn o.mode
    (pageCrossExtra mn o.mode (operandAs o s).crossed)

theorem addWithCarry_of_plain (ho : readable o.mode = true) (h : s.plainRam) :
    addWithCarry mn o s = .ok (s.calculated mn adcResult o) := by
  rw [addWithCarry, resolveOperand_of_plain ho h]
  rfl

theorem subtractWithBorrow_of_plain (ho : readable o.mode = true) (h : s.plainRam) :
    subtractWithBorrow mn o s = .ok (s.calculated mn sbcResult o) := by
  rw [subtractWithBorrow, resolveOperand_of_plain ho h]
  rfl

theorem readable_of_mnemonic (hmn : mn ∈ operandReaders) (hi : i.mnemonic = mn) :
    readable i.operand.mode = true :=
  readable_of_legal hmn (legal_of_mnemonic hi)

theorem exec_adc_of_plain (hi : i.mnemonic = .adc) (h : s.plainRam) :
    exec i s = .next (s.calculated .adc adcResult i.operand) := by
  rw [exec_of_mnemonic hi, ruleOf, addWithCarry_of_plain (readable_of_mnemonic (by decide) hi) h, finish_ok]

theorem exec_sbc_of_plain (hi : i.mnemonic = .sbc) (h : s.plainRam) :
    exec i s = .next (s.calculated .sbc sbcResult i.operand) := by
  rw [exec_of_mnemonic hi, ruleOf, subtractWithBorrow_of_plain (readable_of_mnemonic (by decide) hi) h, finish_ok]

theorem State.calculated_flag (f : Flag) : (s.calculated mn alu o).flag f =
    ((s.withReads (operandReads o s)).setArith (alu s.decimalMode s.a (operandAs o s).value (s.flag .c))).flag f := rfl

theorem State.calculated_frame (ho : readable o.mode = true) (h : s.plainRam) :
    Frame [.a] [.c, .v, .n, .z] [] s (s.calculated mn alu o) := by
  have hw : WritesOnly [.a] [.c, .z, .v, .n] false s (s.calculated mn alu o) :=
    (setArith_writesOnly (resolveOperand_writesOnly (resolveOperand_of_plain ho h)) _).charge _ _ _
  exact hw.frame (by simp) rfl fun _ _ => rfl

/-- An instruction that leaves `State.calculated` has the law of what its `alu` computes in that mode. -/
theorem arithLaw_of_calculated {decimal : Bool} {result : Byte → Byte → Bool → Nat}
    {carry : Byte → Byte → Bool → Bool} {overflow : Byte → Byte → Byte → Bool → Bool} (hmn : mn ∈ operandReaders)
    (hexec : ∀ {i : Instr} {s : State}, i.mnemonic = mn → s.plainRam → exec i s = .next (s.calculated mn alu i.operand))
    (hresult : ∀ a m c, (alu decimal a m c).result.toNat = result a m c)
    (hcarry : ∀ a m c, (alu decimal a m c).carry = carry a m c)
    (hoverflow : ∀ a m c, (alu decimal a m c).overflow = overflow a m (alu decimal a m c).result c) :
    ArithLaw mn decimal result carry overflow := by
  refine fun i s hi hd => ⟨instr_onlyBusFaults i s, fun h => ?_⟩
  have ho : readable i.operand.mode = true := readable_of_mnemonic hmn hi
  have hmode : s.decimalMode = decimal := by simp [State.decimalMode, Config.decimalEnabled, hd]
  have ha : (s.calculated mn alu i.operand).a = (alu decimal s.a (operandAs i.operand s).value (s.flag .c)).result :=
    hmode ▸ rfl
  refine ⟨_, _, _, resolveOperand_of_plain ho h, hexec hi h, ?_, ?_, ?_, ?_, ?_, State.calculated_frame ho h, rfl, rfl,
    rfl⟩
  · rw [ha, hresult]
  · rw [State.calculated_flag, State.flag_setArith, hmode]
    exact hcarry _ _ _
  · rw [State.calculated_flag, State.flag_setArith, ha, hmode]
    exact hoverflow _ _ _
  · rw [State.calculated_flag, State.flag_setArith]
    rfl
  · rw [State.calculated_flag, State.flag_setArith]
    rfl

end

/-- Settles O21: what `adcBinary` computes, by `arithLaw_of_calculated`; the forms by computation. -/
theorem adcBinarySum : Obligations.AdcBinarySum :=
  ⟨arithLaw_of_calculated (by decide) exec_adc_of_plain adcBinary_result_toNat (fun _ _ _ => rfl) adcBinary_overflow,
    hasForms_of_check (by decide)⟩

/-- Settles O22: what `adcDecimal` computes, by `arithLaw_of_calculated`; `bcdValue` is `decOfByte` by definition. -/
theorem adcDecimalSum : Obligations.AdcDecimalSum :=
  arithLaw_of_calculated (by decide) exec_adc_of_plain adcDecimal_result_toNat (fun _ _ _ => rfl)
    (fun a m _ => addOverflow_eq_signs a m _)

/-- Settles O23: what `sbcBinary` computes, by `arithLaw_of_calculated`; the forms by computation. -/
theorem sbcBinaryDifference : Obligations.SbcBinaryDifference :=
  ⟨arithLaw_of_calculated (by decide) exec_sbc_of_plain sbcBinary_result_toNat sbcBinary_carry sbcBinary_overflow,
    hasForms_of_check (by decide)⟩

/-- Settles O24: what `sbcDecimal` computes, by `arithLaw_of_calculated`; `bcdValue` is `decOfByte` by definition. -/
theorem sbcDecimalDifference : Obligations.SbcDecimalDifference :=
  arithLaw_of_calculated (by decide) exec_sbc_of_plain sbcDecimal_result_toNat sbcDecimal_carry
    (fun a m _ => subOverflow_eq_signs a m _)

/-! ### The laws of R243 -/

theorem not_toNat (c : Bool) : (!c).toNat = 1 - c.toNat := by cases c <;> rfl

/-- SBC, then ADC of the same byte with the complemented carry-in, gives A back. -/
theorem adcBinary_sbcBinary_not (a m : Byte) (c : Bool) :
    (adcBinary (sbcBinary a m c).result m (!c)).result = a := by
  apply BitVec.eq_of_toNat_eq
  rw [adcBinary_result_toNat, sbcBinary_result_toNat, not_toNat]
  have hc := Bool.toNat_le c
  omega

/-- The carry of the binary sum is the ninth bit of the sum. -/
theorem adcBinary_carry_eq_bit (a m : Byte) (c : Bool) :
    (adcBinary a m c).carry = (BitVec.ofNat 9 (a.toNat + m.toNat + c.toNat)).getLsbD 8 := by
  have hc := Bool.toNat_le c
  have hbit := BitVec.msb_eq_getLsbD_last (BitVec.ofNat 9 (a.toNat + m.toNat + c.toNat))
  rw [← hbit, BitVec.msb_eq_decide, BitVec.toNat_ofNat]
  simp only [adcBinary, decide_eq_decide]
  omega

/-- Settles O25: the laws of the four results above, and what ADC and SBC leave on the plain-RAM bus. -/
theorem arithmeticLaws : Obligations.ArithmeticLaws := by
  refine ⟨adcBinary_sbcBinary_not, fun a m c => ⟨?_, ?_⟩, fun a m c => ⟨adcBinary_carry_eq_bit a m c, rfl, ?_, ?_⟩, ?_⟩
  · simp [adcBinary_result_toNat]
  · rw [sbcBinary_result_toNat]
    have hc := Bool.toNat_le c
    omega
  · rw [sbcBinary_carry, not_toNat]
  · rw [sbcDecimal_carry, not_toNat]
  · rintro i s (hi | hi) h
    · exact ⟨_, exec_adc_of_plain hi h⟩
    · exact ⟨_, exec_sbc_of_plain hi h⟩

end Sys2Proof.Machine
end

section
/-! PROOF. Increment and decrement (43_incdec.md R260 to R266). -/

namespace Sys2Proof.Machine

/-! ### Steps by one, as numbers -/

theorem incByte_eq_mod : incByte = fun v => BitVec.ofNat 8 ((v.toNat + 1) % 256) := by
  funext v
  apply BitVec.eq_of_toNat_eq
  simp [incByte, BitVec.toNat_add]

theorem decByte_eq_mod : decByte = fun v => BitVec.ofNat 8 ((v.toNat + 255) % 256) := by
  funext v
  apply BitVec.eq_of_toNat_eq
  simp [decByte, BitVec.toNat_sub, Nat.add_comm]

section
variable {mn : Mnemonic} {o : Operand} {f : Byte → Byte} {s : State}

/-! ### A byte of memory rewritten: the reads of the resolver, then one read and one write of the address -/

/-- One more read of the plain-RAM bus. -/
theorem memRead_withReads (h : s.plainRam) (l : List Word) (a : Word) :
    memRead a (s.withReads l) = .ok (s.readByte a, s.withReads (l ++ [a])) := by
  rw [memRead_of_plain (s := s.withReads l) h]
  simp [State.withReads, readTrace, State.logAccess, State.readByte]

/-- What the bus accesses of a read-modify-write leave on the plain-RAM bus when it writes `v` (30_encoding.md R124). -/
def State.rewritten (s : State) (o : Operand) (v : Byte) : State :=
  ((s.withReads (pointerReads o s ++ [(resolvedAs o s).ea])).writeByte (resolvedAs o s).ea v).logAccess
    ⟨.write, (resolvedAs o s).ea, v⟩

theorem memWrite_after_read (h : s.plainRam) (o : Operand) (v : Byte) :
    memWrite (resolvedAs o s).ea v (s.withReads (pointerReads o s ++ [(resolvedAs o s).ea])) = .ok (s.rewritten o v) :=
  memWrite_of_plain (s := s.withReads (pointerReads o s ++ [(resolvedAs o s).ea])) h _ _

theorem State.rewritten_readByte (s : State) (o : Operand) (v : Byte) (a : Word) :
    (s.rewritten o v).readByte a = if a = (resolvedAs o s).ea then v else s.readByte a := by
  split
  · subst a
    simp [State.rewritten]
  · rename_i hne
    simp [State.rewritten, State.writeByte_readByte_other _ _ _ _ hne]

theorem State.rewritten_accesses (s : State) (o : Operand) (v : Byte) :
    (s.rewritten o v).accesses = (s.withReads (pointerReads o s)).accesses ++
      [⟨.read, (resolvedAs o s).ea, s.readByte (resolvedAs o s).ea⟩, ⟨.write, (resolvedAs o s).ea, v⟩] := by
  simp [State.rewritten, readTrace]

/-! ### INC and DEC -/

/-- The state INC or DEC leaves on the plain-RAM bus, stepping with `f`. -/
def State.modified (s : State) (mn : Mnemonic) (f : Byte → Byte) (o : Operand) : State :=
  ((s.rewritten o (f (s.readByte (resolvedAs o s).ea))).setNZ (f (s.readByte (resolvedAs o s).ea))).charge mn o.mode
    (pageCrossExtra mn o.mode (resolvedAs o s).crossed)

theorem modifyMemory_of_plain (ho : addressable o.mode = true) (h : s.plainRam) :
    modifyMemory mn f o s = .ok (s.modified mn f o) := by
  rw [modifyMemory, resolveAddress_of_plain ho h, ok_bind]
  dsimp only
  rw [memRead_withReads h, ok_bind]
  dsimp only
  rw [memWrite_after_read h]
  rfl

theorem State.modified_readByte (s : State) (mn : Mnemonic) (f : Byte → Byte) (o : Operand) (a : Word) :
    (s.modified mn f o).readByte a =
      if a = (resolvedAs o s).ea then f (s.readByte (resolvedAs o s).ea) else s.readByte a :=
  State.rewritten_readByte s o _ a

theorem State.modified_p (s : State) (mn : Mnemonic) (f : Byte → Byte) (o : Operand) :
    (s.modified mn f o).p = Machine.setNZ s.p (f (s.readByte (resolvedAs o s).ea)) := by
  simp [State.modified, State.rewritten]

/-- The rule `modifyMemory` is a read-modify-write law for each mnemonic that has it. -/
theorem modifyMemoryLaw_of_rule (hrule : ∀ o, ruleOf mn o = modifyMemory mn f o) (hmn : mn ∈ addressUsers) :
    ModifyMemoryLaw mn f := by
  refine fun i s hi => ⟨instr_onlyBusFaults i s, fun h => ?_⟩
  have ho : addressable i.operand.mode = true := addressable_of_legal hmn (legal_of_mnemonic hi)
  have hmodify : modifyMemory mn f i.operand s = .ok (s.modified mn f i.operand) := modifyMemory_of_plain ho h
  have hexec : exec i s = .next (s.modified mn f i.operand) := by
    rw [exec_of_mnemonic hi, hrule, hmodify, finish_ok]
  have hw : WritesOnly [] [.z, .n] false s (s.modified mn f i.operand) := modifyMemory_writesOnly hmodify
  refine ⟨_, _, _, resolveAddress_of_plain ho h, hexec, ?_, ?_, ?_,
    hw.frame (by simp) (by simp [State.modified, State.rewritten]) fun a ha => ?_, hw.pc rfl,
    by simp [State.modified, State.rewritten], by simp [State.modified, State.rewritten_accesses]⟩
  · rw [State.modified_readByte, if_pos rfl]
  · rw [State.flag, State.modified_p, getFlag_setNZ_n]
  · rw [State.flag, State.modified_p, getFlag_setNZ_z]
  · rw [State.modified_readByte, if_neg (by simpa using ha)]

/-! ### INX, INY, DEX and DEY -/

/-- The state a step of a register leaves, on any bus. -/
def State.modifiedReg (s : State) (mn : Mnemonic) (f : Byte → Byte) (r : Reg) : State :=
  ((s.setReg r (f (s.reg r))).setNZ (f (s.reg r))).charge mn .implied 0

theorem modifyReg_eq (mn : Mnemonic) (f : Byte → Byte) (r : Reg) (s : State) :
    modifyReg mn f r s = .ok (s.modifiedReg mn f r) := rfl

theorem State.modifiedReg_reg (s : State) (mn : Mnemonic) (f : Byte → Byte) (r : Reg) :
    (s.modifiedReg mn f r).reg r = f (s.reg r) := by
  simp [State.modifiedReg, State.setReg_reg_same]

theorem State.modifiedReg_p (s : State) (mn : Mnemonic) (f : Byte → Byte) (r : Reg) :
    (s.modifiedReg mn f r).p = Machine.setNZ s.p (f (s.reg r)) := by
  simp [State.modifiedReg]

/-- The rule `modifyReg` is a law of a stepped register for each mnemonic that has it. -/
theorem modifyRegLaw_of_rule {r : Reg} (hrule : ∀ o, ruleOf mn o = modifyReg mn f r) : ModifyRegLaw mn r f := by
  intro i s hi
  have hexec : exec i s = .next (s.modifiedReg mn f r) := by
    rw [exec_of_mnemonic hi, hrule, modifyReg_eq, finish_ok]
  have hw : WritesOnly [r] [.z, .n] false s (s.modifiedReg mn f r) := modifyReg_writesOnly (modifyReg_eq mn f r s)
  refine ⟨_, hexec, State.modifiedReg_reg s mn f r, ?_, ?_,
    hw.frame (by simp) (by simp [State.modifiedReg, State.busSetup]) (fun a _ => by simp [State.modifiedReg]), hw.pc rfl,
    by simp [State.modifiedReg], by simp [State.modifiedReg]⟩
  · rw [State.flag, State.modifiedReg_p, getFlag_setNZ_n]
  · rw [State.flag, State.modifiedReg_p, getFlag_setNZ_z]

end

/-- Settles O26: both have the rule `modifyMemory` (`modifyMemoryLaw_of_rule`); the forms by computation. -/
theorem incDecMemory : Obligations.IncDecMemory :=
  ⟨incByte_eq_mod ▸ modifyMemoryLaw_of_rule (fun _ => rfl) (by decide),
    decByte_eq_mod ▸ modifyMemoryLaw_of_rule (fun _ => rfl) (by decide),
    hasForms_of_check (by decide), hasForms_of_check (by decide)⟩

/-- Settles O27: each of the four has the rule `modifyReg` (`modifyRegLaw_of_rule`); the forms by computation. -/
theorem incDecRegisters : Obligations.IncDecRegisters :=
  ⟨incByte_eq_mod ▸ modifyRegLaw_of_rule fun _ => rfl, incByte_eq_mod ▸ modifyRegLaw_of_rule fun _ => rfl,
    decByte_eq_mod ▸ modifyRegLaw_of_rule fun _ => rfl, decByte_eq_mod ▸ modifyRegLaw_of_rule fun _ => rfl,
    hasForms_of_check (by decide), hasForms_of_check (by decide), hasForms_of_check (by decide),
    hasForms_of_check (by decide)⟩

end Sys2Proof.Machine
end

section
/-! PROOF. Shifts and rotates (44_shifts.md R280 to R284). -/

namespace Sys2Proof.Machine

/-! ### The results: R281 to R284 in numbers, as shifts of the byte -/

theorem aslResult_result (v : Byte) (c : Bool) : (aslResult v c).result = v <<< 1 := by
  apply BitVec.eq_of_toNat_eq
  simp [aslResult, Nat.shiftLeft_eq]

theorem lsrResult_result (v : Byte) (c : Bool) : (lsrResult v c).result = v >>> 1 := by
  apply BitVec.eq_of_toNat_eq
  simp only [lsrResult, BitVec.toNat_ofNat, BitVec.toNat_ushiftRight, Nat.shiftRight_eq_div_pow]
  omega

/-- The carry goes into bit 0, which the shift to the left has vacated, so that adding it sets it (R283). -/
theorem rolResult_result (v : Byte) (c : Bool) :
    (rolResult v c).result = (v <<< 1) ||| (BitVec.ofBool c).setWidth 8 := by
  have hvacated : (v <<< 1) &&& (BitVec.ofBool c).setWidth 8 = 0#8 := by
    ext k
    cases k <;> simp
  rw [← BitVec.add_eq_or_of_and_eq_zero _ _ hvacated]
  apply BitVec.eq_of_toNat_eq
  simp [rolResult, Nat.shiftLeft_eq]

/-- The carry goes into bit 7, which the shift to the right has vacated, so that adding it sets it (R284). -/
theorem rorResult_result (v : Byte) (c : Bool) :
    (rorResult v c).result = (v >>> 1) ||| ((BitVec.ofBool c).setWidth 8 <<< 7) := by
  have hvacated : (v >>> 1) &&& ((BitVec.ofBool c).setWidth 8 <<< 7) = 0#8 := by
    ext k hk
    simp only [BitVec.getElem_and, BitVec.getElem_ushiftRight, BitVec.getElem_shiftLeft, BitVec.getElem_zero]
    by_cases hlt : k < 7
    · simp [hlt]
    · simp [BitVec.getLsbD_of_ge v (1 + k) (by omega)]
  rw [← BitVec.add_eq_or_of_and_eq_zero _ _ hvacated]
  apply BitVec.eq_of_toNat_eq
  simp [rorResult, Nat.shiftLeft_eq, Nat.shiftRight_eq_div_pow]

section
variable {mn : Mnemonic} {o : Operand} {f : Byte → Bool → ShiftResult} {s : State}

/-! ### A shift of A, on any bus -/

/-- The state a shift of A leaves. -/
def State.shiftedAcc (s : State) (mn : Mnemonic) (f : Byte → Bool → ShiftResult) : State :=
  ((s.setA (f s.a (s.flag .c)).result).setShiftFlags (f s.a (s.flag .c))).charge mn .accumulator 0

theorem shift_accumulator (mn : Mnemonic) (f : Byte → Bool → ShiftResult) (s : State) :
    shift mn f .accumulator s = .ok (s.shiftedAcc mn f) := rfl

theorem State.shiftedAcc_a : (s.shiftedAcc mn f).a = (f s.a (s.flag .c)).result := rfl

theorem State.shiftedAcc_flag (g : Flag) :
    (s.shiftedAcc mn f).flag g = (s.setShiftFlags (f s.a (s.flag .c))).flag g := rfl

/-! ### A shift of the byte at the effective address, on the plain-RAM bus -/

/-- The state a shift of a byte of memory leaves. -/
def State.shiftedMem (s : State) (mn : Mnemonic) (f : Byte → Bool → ShiftResult) (o : Operand) : State :=
  let r := f (s.readByte (resolvedAs o s).ea) (s.flag .c)
  ((s.rewritten o r.result).setShiftFlags r).charge mn o.mode (pageCrossExtra mn o.mode (resolvedAs o s).crossed)

theorem ne_accumulator_of_addressable {m : Mode} (hm : addressable m = true) : m ≠ .accumulator := by
  rintro rfl
  cases hm

theorem shift_of_plain (ho : addressable o.mode = true) (h : s.plainRam) :
    shift mn f o s = .ok (s.shiftedMem mn f o) := by
  rw [shift_eq (ne_accumulator_of_addressable ho), resolveAddress_of_plain ho h, ok_bind]
  dsimp only
  rw [memRead_withReads h, ok_bind]
  dsimp only
  rw [State.withReads_flag, memWrite_after_read h]
  rfl

theorem State.shiftedMem_readByte (a : Word) : (s.shiftedMem mn f o).readByte a =
    if a = (resolvedAs o s).ea then (f (s.readByte (resolvedAs o s).ea) (s.flag .c)).result else s.readByte a :=
  State.rewritten_readByte s o _ a

theorem State.shiftedMem_flag (g : Flag) : (s.shiftedMem mn f o).flag g =
    (s.setShiftFlags (f (s.readByte (resolvedAs o s).ea) (s.flag .c))).flag g := rfl

theorem State.shiftedMem_accesses : (s.shiftedMem mn f o).accesses = (s.withReads (pointerReads o s)).accesses ++
    [⟨.read, (resolvedAs o s).ea, s.readByte (resolvedAs o s).ea⟩,
      ⟨.write, (resolvedAs o s).ea, (f (s.readByte (resolvedAs o s).ea) (s.flag .c)).result⟩] :=
  State.rewritten_accesses s o _

/-! ### The law of the rule -/

/-- The rule `shift` is a law of shifts for each mnemonic that has it. -/
theorem shiftLaw_of_rule {result : Byte → Bool → Byte} {carry : Byte → Bool} (hrule : ∀ o, ruleOf mn o = shift mn f o)
    (hmn : mn ∈ shiftMnemonics) (hresult : ∀ v c, (f v c).result = result v c) (hcarry : ∀ v c, (f v c).carry = carry v) :
    ShiftLaw mn result carry := by
  refine fun i s hi => ⟨instr_onlyBusFaults i s, fun hacc => ?_, fun hmem h => ?_⟩
  · have hshift : shift mn f .accumulator s = .ok (s.shiftedAcc mn f) := shift_accumulator mn f s
    have hexec : exec i s = .next (s.shiftedAcc mn f) := by rw [exec_of_mnemonic hi, hacc, hrule, hshift, finish_ok]
    have hw : WritesOnly [.a] [.c, .z, .n] false s (s.shiftedAcc mn f) := shift_writesOnly hshift
    refine ⟨_, hexec, ?_, hw.frame (by simp) rfl fun _ _ => rfl, hw.pc rfl, rfl, rfl⟩
    simp [State.shiftedAcc_a, State.shiftedAcc_flag, State.flag_setShiftFlags, hresult, hcarry]
  · have ho : addressable i.operand.mode = true :=
      (addressable_of_legal_shift hmn (legal_of_mnemonic hi)).resolve_left fun hm => hmem (operand_accumulator hm)
    have hshift : shift mn f i.operand s = .ok (s.shiftedMem mn f i.operand) := shift_of_plain ho h
    have hexec : exec i s = .next (s.shiftedMem mn f i.operand) := by
      rw [exec_of_mnemonic hi, hrule, hshift, finish_ok]
    have hw : WritesOnly [] [.c, .z, .n] false s (s.shiftedMem mn f i.operand) := by
      simpa only [if_neg (ne_accumulator_of_addressable ho)] using shift_writesOnly hshift
    refine ⟨_, _, _, resolveAddress_of_plain ho h, hexec, ?_,
      hw.frame (by simp) (by simp [State.shiftedMem, State.rewritten]) fun a ha => ?_, hw.pc rfl,
      by simp [State.shiftedMem, State.rewritten]⟩
    · simp [State.shiftedMem_readByte, State.shiftedMem_flag, State.shiftedMem_accesses, State.flag_setShiftFlags,
        hresult, hcarry]
    · rw [State.shiftedMem_readByte, if_neg (by simpa using ha)]

end

/-- Settles O28: each of the four has the rule `shift` (`shiftLaw_of_rule`), and its result in numbers is the shift; the
forms by computation. -/
theorem shiftsByOnePosition : Obligations.ShiftsByOnePosition :=
  ⟨shiftLaw_of_rule (fun _ => rfl) (by decide) aslResult_result fun _ _ => rfl,
    shiftLaw_of_rule (fun _ => rfl) (by decide) lsrResult_result fun _ _ => rfl,
    shiftLaw_of_rule (fun _ => rfl) (by decide) rolResult_result fun _ _ => rfl,
    shiftLaw_of_rule (fun _ => rfl) (by decide) rorResult_result fun _ _ => rfl,
    hasForms_of_check (by decide), hasForms_of_check (by decide), hasForms_of_check (by decide),
    hasForms_of_check (by decide)⟩

end Sys2Proof.Machine
end

section
/-! PROOF. Logical operations (45_logical.md R300 to R303). -/

namespace Sys2Proof.Machine

section
variable {mn : Mnemonic} {o : Operand} {f : Byte → Byte → Byte} {s : State}

/-- The state a logical operation leaves on the plain-RAM bus. -/
def State.combined (s : State) (mn : Mnemonic) (f : Byte → Byte → Byte) (o : Operand) : State :=
  let v := f s.a (operandAs o s).value
  (((s.withReads (operandReads o s)).setA v).setNZ v).charge mn o.mode
    (pageCrossExtra mn o.mode (operandAs o s).crossed)

theorem logical_of_plain (ho : readable o.mode = true) (h : s.plainRam) :
    logical mn f o s = .ok (s.combined mn f o) := by
  rw [logical, resolveOperand_of_plain ho h]
  rfl

theorem State.combined_a : (s.combined mn f o).a = f s.a (operandAs o s).value := rfl

theorem State.combined_p : (s.combined mn f o).p = Machine.setNZ s.p (s.combined mn f o).a := rfl

/-- The rule `logical` is a law of logical operations for each mnemonic that has it, bit by bit as its `f` is. -/
theorem logicalLaw_of_rule {bit : Bool → Bool → Bool} (hrule : ∀ o, ruleOf mn o = logical mn f o)
    (hmn : mn ∈ operandReaders) (hbit : ∀ {a m k}, (f a m).getLsbD k = bit (a.getLsbD k) (m.getLsbD k)) :
    LogicalLaw mn bit := by
  refine fun i s hi => ⟨instr_onlyBusFaults i s, fun h => ?_⟩
  have ho : readable i.operand.mode = true := readable_of_mnemonic hmn hi
  have hlogical : logical mn f i.operand s = .ok (s.combined mn f i.operand) := logical_of_plain ho h
  have hexec : exec i s = .next (s.combined mn f i.operand) := by
    rw [exec_of_mnemonic hi, hrule, hlogical, finish_ok]
  have hw : WritesOnly [.a] [.z, .n] false s (s.combined mn f i.operand) := logical_writesOnly hlogical
  refine ⟨_, _, _, resolveOperand_of_plain ho h, hexec, fun k _ => ?_, ?_, ?_,
    hw.frame (by simp) rfl fun _ _ => rfl, hw.pc rfl, rfl, rfl⟩
  · rw [State.combined_a, hbit]
  · rw [State.flag, State.combined_p, getFlag_setNZ_n]
  · rw [State.flag, State.combined_p, getFlag_setNZ_z]

end

/-- Settles O29: each of the three has the rule `logical` (`logicalLaw_of_rule`), with the byte operation whose bits the
library gives; the forms by computation. -/
theorem logicalCombinesWithA : Obligations.LogicalCombinesWithA :=
  ⟨logicalLaw_of_rule (fun _ => rfl) (by decide) BitVec.getLsbD_and,
    logicalLaw_of_rule (fun _ => rfl) (by decide) BitVec.getLsbD_or,
    logicalLaw_of_rule (fun _ => rfl) (by decide) BitVec.getLsbD_xor,
    hasForms_of_check (by decide), hasForms_of_check (by decide), hasForms_of_check (by decide)⟩

end Sys2Proof.Machine
end

section
/-! PROOF. Compare and bit test (46_compare_bit.md R320 to R324). -/

namespace Sys2Proof.Machine

section
variable {mn : Mnemonic} {o : Operand} {s : State}

/-! ### CMP, CPX and CPY -/

/-- The state a compare leaves on the plain-RAM bus. -/
def State.compared (s : State) (mn : Mnemonic) (r : Reg) (o : Operand) : State :=
  ((s.withReads (operandReads o s)).setP (compareFlags s.p (s.reg r) (operandAs o s).value)).charge mn o.mode
    (pageCrossExtra mn o.mode (operandAs o s).crossed)

theorem compareReg_of_plain (r : Reg) (ho : readable o.mode = true) (h : s.plainRam) :
    compareReg mn r o s = .ok (s.compared mn r o) := by
  rw [compareReg, resolveOperand_of_plain ho h, ok_bind]
  dsimp only
  rw [State.withReads_reg]
  rfl

theorem State.compared_flag (r : Reg) (f : Flag) : (s.compared mn r o).flag f =
    getFlag (compareFlags s.p (s.reg r) (operandAs o s).value) f := rfl

/-- The rule `compareReg` is a compare law for each mnemonic that has it. -/
theorem compareLaw_of_rule {r : Reg} (hrule : ∀ o, ruleOf mn o = compareReg mn r o) (hmn : mn ∈ operandReaders) :
    CompareLaw mn r := by
  refine fun i s hi => ⟨instr_onlyBusFaults i s, fun h => ?_⟩
  have ho : readable i.operand.mode = true := readable_of_mnemonic hmn hi
  have hcompare : compareReg mn r i.operand s = .ok (s.compared mn r i.operand) := compareReg_of_plain r ho h
  have hexec : exec i s = .next (s.compared mn r i.operand) := by
    rw [exec_of_mnemonic hi, hrule, hcompare, finish_ok]
  have hw : WritesOnly [] [.c, .z, .n] false s (s.compared mn r i.operand) := compareReg_writesOnly hcompare
  refine ⟨_, _, _, resolveOperand_of_plain ho h, hexec, ?_, ?_, ?_, hw.frame (by simp) rfl fun _ _ => rfl,
    hw.pc rfl, rfl, rfl⟩
  · rw [State.compared_flag, getFlag_compareFlags, if_neg (by decide), if_neg (by decide), if_pos rfl]
  · rw [State.compared_flag, getFlag_compareFlags, if_neg (by decide), if_pos rfl]
  · rw [State.compared_flag, getFlag_compareFlags, if_pos rfl]

/-! ### BIT -/

/-- The state BIT leaves on the plain-RAM bus. -/
def State.bitTested (s : State) (mn : Mnemonic) (o : Operand) : State :=
  ((s.withReads (operandReads o s)).setP (bitFlags s.p s.a (operandAs o s).value)).charge mn o.mode
    (pageCrossExtra mn o.mode (operandAs o s).crossed)

theorem bitTest_of_plain (ho : readable o.mode = true) (h : s.plainRam) :
    bitTest mn o s = .ok (s.bitTested mn o) := by
  rw [bitTest, resolveOperand_of_plain ho h]
  rfl

theorem State.bitTested_flag (f : Flag) : (s.bitTested mn o).flag f =
    getFlag (bitFlags s.p s.a (operandAs o s).value) f := rfl

end

/-- Settles O30: CMP has the rule `compareReg` with A (`compareLaw_of_rule`); the forms by computation. -/
theorem compareAccumulator : Obligations.CompareAccumulator :=
  ⟨compareLaw_of_rule (fun _ => rfl) (by decide), hasForms_of_check (by decide)⟩

/-- Settles O31: CPX and CPY have the rule `compareReg` with X and with Y (`compareLaw_of_rule`); the forms by
computation. -/
theorem compareIndexRegisters : Obligations.CompareIndexRegisters :=
  ⟨compareLaw_of_rule (fun _ => rfl) (by decide), compareLaw_of_rule (fun _ => rfl) (by decide),
    hasForms_of_check (by decide), hasForms_of_check (by decide)⟩

/-- Settles O32: BIT has the rule `bitTest`, which reads the operand and writes P alone, to `bitFlags`; the forms by
computation. -/
theorem bitTestsMemory : Obligations.BitTestsMemory := by
  refine ⟨fun i s hi => ⟨instr_onlyBusFaults i s, fun h => ?_⟩, hasForms_of_check (by decide)⟩
  have ho : readable i.operand.mode = true := readable_of_mnemonic (by decide) hi
  have hbit : bitTest .bit i.operand s = .ok (s.bitTested .bit i.operand) := bitTest_of_plain ho h
  have hexec : exec i s = .next (s.bitTested .bit i.operand) := by rw [exec_of_mnemonic hi, ruleOf, hbit, finish_ok]
  have hw : WritesOnly [] [.z, .v, .n] false s (s.bitTested .bit i.operand) := bitTest_writesOnly hbit
  refine ⟨_, _, _, resolveOperand_of_plain ho h, hexec, ?_, ?_, ?_, hw.frame (by simp) rfl fun _ _ => rfl,
    hw.pc rfl, rfl, rfl⟩
  · rw [State.bitTested_flag, getFlag_bitFlags, if_neg (by decide), if_neg (by decide), if_pos rfl]
  · rw [State.bitTested_flag, getFlag_bitFlags, if_neg (by decide), if_pos rfl]
  · rw [State.bitTested_flag, getFlag_bitFlags, if_pos rfl]

end Sys2Proof.Machine
end

section
/-! PROOF. Conditional branches (47_branches.md R340 to R348). -/

namespace Sys2Proof.Machine

section
variable {mn : Mnemonic} {f : Flag} {val : Bool}

/-- The state a branch leaves, on any bus; only PC depends on whether it is taken, besides the cycle count. -/
def State.branched (s : State) (mn : Mnemonic) (f : Flag) (val : Bool) (off : Byte) : State :=
  (s.setPC (if s.flag f = val then s.pc + sext off else s.pc)).charge mn .relative
    (branchExtra s.pc (s.pc + sext off) (s.flag f == val))

theorem branch_eq (mn : Mnemonic) (f : Flag) (val : Bool) (off : Byte) (s : State) :
    branch mn f val off s = .ok (s.branched mn f val off) := by
  by_cases h : s.flag f = val
  · simp [branch, State.branched, h]
  · rw [State.branched, if_neg h, branch, beq_false_of_ne h]
    rfl

theorem State.branched_pc (s : State) (mn : Mnemonic) (f : Flag) (val : Bool) (off : Byte) :
    (s.branched mn f val off).pc = if s.flag f = val then s.pc + sext off else s.pc := rfl

/-- The target as a number: the displacement is signed and PC wraps modulo 65536 (R340). -/
theorem State.branched_pc_toNat (s : State) (mn : Mnemonic) (f : Flag) (val : Bool) (off : Byte) :
    ((s.branched mn f val off).pc.toNat : Int) =
      if s.flag f = val then ((s.pc.toNat : Int) + off.toInt) % 65536 else s.pc.toNat := by
  rw [State.branched_pc]
  split
  · exact toNat_add_sext s.pc off
  · rfl

/-- The rule `branch` is a branch law for each mnemonic that has it and has the Relative mode alone. -/
theorem branchLaw_of_rule (hrule : ∀ off, ruleOf mn (.relative off) = branch mn f val off)
    (hlegal : ∀ m, legalMode mn m = true → m = .relative) : BranchLaw mn f val := by
  intro i s hi
  obtain ⟨off, ho⟩ := operand_relative (hlegal _ (legal_of_mnemonic hi))
  have hexec : exec i s = .next (s.branched mn f val off) := by
    rw [exec_of_mnemonic hi, ho, hrule, branch_eq, finish_ok]
  have hw : WritesOnly [] [] true s (s.branched mn f val off) := branch_writesOnly (branch_eq mn f val off s)
  exact ⟨off, _, ho, hexec, State.branched_pc_toNat s mn f val off,
    hw.frame (List.Subset.refl _) rfl (fun _ _ => rfl), rfl, rfl⟩

end

/-- Settles O33: each of the eight has the rule `branch` with its flag and the value tested (`branchLaw_of_rule`); the
forms by computation. -/
theorem branchesOnOneFlag : Obligations.BranchesOnOneFlag :=
  ⟨branchLaw_of_rule (fun _ => rfl) fun _ => beq_iff_eq.1, branchLaw_of_rule (fun _ => rfl) fun _ => beq_iff_eq.1,
    branchLaw_of_rule (fun _ => rfl) fun _ => beq_iff_eq.1, branchLaw_of_rule (fun _ => rfl) fun _ => beq_iff_eq.1,
    branchLaw_of_rule (fun _ => rfl) fun _ => beq_iff_eq.1, branchLaw_of_rule (fun _ => rfl) fun _ => beq_iff_eq.1,
    branchLaw_of_rule (fun _ => rfl) fun _ => beq_iff_eq.1, branchLaw_of_rule (fun _ => rfl) fun _ => beq_iff_eq.1,
    hasForms_of_check (by decide), hasForms_of_check (by decide), hasForms_of_check (by decide),
    hasForms_of_check (by decide), hasForms_of_check (by decide), hasForms_of_check (by decide),
    hasForms_of_check (by decide), hasForms_of_check (by decide)⟩

end Sys2Proof.Machine
end

section
/-! PROOF. Status-flag control (48_flag_control.md R360 to R367). -/

namespace Sys2Proof.Machine

section
variable {mn : Mnemonic} {f : Flag} {val : Bool}

/-- The state a flag-control instruction leaves, on any bus. -/
def State.flagControlled (s : State) (mn : Mnemonic) (f : Flag) (val : Bool) : State :=
  (s.setFlag f val).charge mn .implied 0

theorem flagControl_eq (mn : Mnemonic) (f : Flag) (val : Bool) (s : State) :
    flagControl mn f val s = .ok (s.flagControlled mn f val) := rfl

theorem State.flagControlled_flag (s : State) : (s.flagControlled mn f val).flag f = val :=
  getFlag_setFlag_same s.p f val

/-- The rule `flagControl` is a flag-control law for each mnemonic that has it. -/
theorem flagControlLaw_of_rule (hrule : ∀ o, ruleOf mn o = flagControl mn f val) : FlagControlLaw mn f val := by
  intro i s hi
  have hexec : exec i s = .next (s.flagControlled mn f val) := by
    rw [exec_of_mnemonic hi, hrule, flagControl_eq, finish_ok]
  have hw : WritesOnly [] [f] false s (s.flagControlled mn f val) := flagControl_writesOnly (flagControl_eq mn f val s)
  exact ⟨_, hexec, s.flagControlled_flag, hw.frame (List.Subset.refl _) rfl (fun _ _ => rfl), hw.pc rfl, rfl, rfl⟩

end

/-- Settles O34: each of the four has the rule `flagControl` (`flagControlLaw_of_rule`); the forms by computation. -/
theorem clearInstructionsClearOneFlag : Obligations.ClearInstructionsClearOneFlag :=
  ⟨flagControlLaw_of_rule fun _ => rfl, flagControlLaw_of_rule fun _ => rfl, flagControlLaw_of_rule fun _ => rfl,
    flagControlLaw_of_rule fun _ => rfl, hasForms_of_check (by decide), hasForms_of_check (by decide),
    hasForms_of_check (by decide), hasForms_of_check (by decide)⟩

/-- Settles O35: each of the three has the rule `flagControl` (`flagControlLaw_of_rule`); the forms by computation. -/
theorem setInstructionsSetOneFlag : Obligations.SetInstructionsSetOneFlag :=
  ⟨flagControlLaw_of_rule fun _ => rfl, flagControlLaw_of_rule fun _ => rfl, flagControlLaw_of_rule fun _ => rfl,
    hasForms_of_check (by decide), hasForms_of_check (by decide), hasForms_of_check (by decide)⟩

end Sys2Proof.Machine
end

section
/-! PROOF. Jumps, subroutines, the stack and the no-op (49_jumps_stack.md R380 to R383, R386 to R390). -/

namespace Sys2Proof.Machine

/-! ### Several pushes or pops in a row -/

section
variable (sp : Byte)

theorem byte_add_one_add_one : sp + 1 + 1 = sp + 2 := BitVec.add_assoc sp 1 1

theorem byte_add_two_add_one : sp + 2 + 1 = sp + 3 := BitVec.add_assoc sp 2 1

theorem byte_sub_one_sub_one : sp - 1 - 1 = sp - 2 := by bv_omega

theorem byte_sub_two_sub_one : sp - 2 - 1 = sp - 3 := by bv_omega

/-- The diagnostics of two pushes in a row: at most one is made at SP = 0xFF (20_memory.md R66). -/
theorem pushDiags_two :
    pushDiags sp ++ pushDiags (sp + 1) = if sp = 0xFF ∨ sp = 0xFE then [.stackOverflow] else [] := by
  by_cases h1 : sp = 0xFF
  · subst h1; rfl
  by_cases h2 : sp = 0xFE
  · subst h2; rfl
  rw [pushDiags_of_ne h1, pushDiags_of_ne (by bv_omega), if_neg (not_or.2 ⟨h1, h2⟩), List.append_nil]

/-- The diagnostics of two pops in a row: at most one is made at SP = 0x00 (20_memory.md R66). -/
theorem popDiags_two :
    popDiags sp ++ popDiags (sp - 1) = if sp = 0x00 ∨ sp = 0x01 then [.stackUnderflow] else [] := by
  by_cases h1 : sp = 0x00
  · subst h1; rfl
  by_cases h2 : sp = 0x01
  · subst h2; rfl
  rw [popDiags_of_ne h1, popDiags_of_ne (by bv_omega), if_neg (not_or.2 ⟨h1, h2⟩), List.append_nil]

end

section
variable (s : State) (w : Word)

/-- The state that pushing a word leaves on the plain-RAM bus (49_jumps_stack.md R381, R384). -/
def State.pushedWord : State := (s.pushed (hiByte w)).pushed (loByte w)

theorem State.pushedWord_sp : (s.pushedWord w).sp = s.sp + 2 := byte_add_one_add_one s.sp

theorem State.pushedWord_accesses : (s.pushedWord w).accesses =
    s.accesses ++ [⟨.write, stackAddress s.sp, hiByte w⟩, ⟨.write, stackAddress (s.sp + 1), loByte w⟩] := by
  rw [State.pushedWord, State.pushed_accesses, State.pushed_accesses, List.append_assoc]
  rfl

theorem State.pushedWord_diags :
    (s.pushedWord w).diags = s.diags ++ if s.sp = 0xFF ∨ s.sp = 0xFE then [.stackOverflow] else [] := by
  rw [State.pushedWord, State.pushed_diags, State.pushed_diags, State.pushed_sp, List.append_assoc, pushDiags_two]

/-- The high byte stands at the lower address. -/
theorem State.pushedWord_readByte_hi : (s.pushedWord w).readByte (stackAddress s.sp) = hiByte w := by
  have hne : stackAddress s.sp ≠ stackAddress (s.pushed (hiByte w)).sp := by
    rw [State.pushed_sp]
    exact stackAddress_ne_next s.sp
  rw [State.pushedWord, State.pushed_readByte_other _ _ hne, State.pushed_readByte_same]

theorem State.pushedWord_readByte_lo : (s.pushedWord w).readByte (stackAddress (s.sp + 1)) = loByte w :=
  (s.pushed (hiByte w)).pushed_readByte_same (loByte w)

theorem State.pushedWord_readByte_other {b : Word} (hhi : b ≠ stackAddress s.sp) (hlo : b ≠ stackAddress (s.sp + 1)) :
    (s.pushedWord w).readByte b = s.readByte b := by
  rw [← State.pushed_sp s (hiByte w)] at hlo
  rw [State.pushedWord, State.pushed_readByte_other _ _ hlo, State.pushed_readByte_other _ _ hhi]

/-- The state that popping a word leaves on the plain-RAM bus (49_jumps_stack.md R382, R385). -/
def State.poppedWord : State := s.popped.popped

/-- The word popped, low byte first. -/
def State.topWord : Word := joinBytes (s.readByte (stackAddress (s.sp - 2))) (s.readByte (stackAddress (s.sp - 1)))

theorem State.poppedWord_sp : s.poppedWord.sp = s.sp - 2 := byte_sub_one_sub_one s.sp

theorem State.poppedWord_accesses : s.poppedWord.accesses =
    s.accesses ++ [⟨.read, stackAddress (s.sp - 1), s.readByte (stackAddress (s.sp - 1))⟩,
      ⟨.read, stackAddress (s.sp - 2), s.readByte (stackAddress (s.sp - 2))⟩] := by
  rw [State.poppedWord, State.popped_accesses, State.popped_accesses, List.append_assoc, ← byte_sub_one_sub_one]
  rfl

theorem State.poppedWord_diags :
    s.poppedWord.diags = s.diags ++ if s.sp = 0x00 ∨ s.sp = 0x01 then [.stackUnderflow] else [] := by
  rw [State.poppedWord, State.popped_diags, State.popped_diags, State.popped_sp, List.append_assoc, popDiags_two]

end

/-! ### JMP -/

section
variable {mn : Mnemonic} {s : State} {w : Word}

/-- The state a jump to `target` leaves. -/
def State.jumped (s : State) (mn : Mnemonic) (m : Mode) (target : Word) : State := (s.setPC target).charge mn m 0

theorem jump_absolute (mn : Mnemonic) (w : Word) (s : State) :
    jump mn (.absolute w) s = .ok (s.jumped mn .absolute w) := rfl

theorem jump_absoluteIndirect_of_plain (h : s.plainRam) : jump mn (.absoluteIndirect w) s =
    .ok ((s.withReads [w, bugHiAddress w]).jumped mn .absoluteIndirect
      (joinBytes (s.readByte (bugHiAddress w)) (s.readByte w))) := by
  rw [jump, resolveAddress_of_plain rfl h]
  rfl

end

/-- Settles O36: the rule `jump` with its two operands; the indirect one reads the pointer in one page
(`ofNat_bugHiAddress`). The forms by computation. -/
theorem jumpGoesToTheEffectiveAddress : Obligations.JumpGoesToTheEffectiveAddress := by
  refine ⟨fun i s hi => ⟨instr_onlyBusFaults i s, fun w ho => ?_, fun w ho h => ?_⟩, hasForms_of_check (by decide)⟩
  · have hjump : jump .jmp (.absolute w) s = .ok (s.jumped .jmp .absolute w) := jump_absolute .jmp w s
    have hexec : exec i s = .next (s.jumped .jmp .absolute w) := by
      rw [exec_of_mnemonic hi, ho, ruleOf, hjump, finish_ok]
    exact ⟨_, hexec, rfl, (jump_writesOnly hjump).frame (List.Subset.refl _) rfl (fun _ _ => rfl), rfl, rfl⟩
  · have hjump := jump_absoluteIndirect_of_plain (mn := .jmp) (w := w) h
    have hexec := exec_of_mnemonic hi s
    rw [ho, ruleOf, hjump, finish_ok] at hexec
    rw [ofNat_bugHiAddress]
    exact ⟨_, hexec, ⟨joinBytes_toNat _ _, rfl⟩,
      (jump_writesOnly hjump).frame (List.Subset.refl _) rfl (fun _ _ => rfl), rfl⟩

/-! ### JSR -/

section
variable {mn : Mnemonic} {s : State} {w : Word}

/-- The state JSR leaves on the plain-RAM bus. -/
def State.calledAt (s : State) (mn : Mnemonic) (w : Word) : State := (s.pushedWord (s.pc - 1)).jumped mn .absolute w

theorem jumpSubroutine_of_plain (h : s.plainRam) : jumpSubroutine mn (.absolute w) s = .ok (s.calledAt mn w) := by
  rw [jumpSubroutine, resolveAddress_of_plain rfl h, ok_bind]
  simp only [pointerReads, State.withReads_nil]
  rw [pushWord_of_plain h]
  rfl

end

/-- Settles O37: on the plain-RAM bus JSR leaves `State.calledAt`, whose bytes are those of `State.pushedWord`; the forms by
computation. -/
theorem jsrPushesReturnAndJumps : Obligations.JsrPushesReturnAndJumps := by
  refine ⟨fun i s hi => ⟨instr_onlyBusFaults i s, ?_⟩, hasForms_of_check (by decide)⟩
  obtain ⟨w, ho⟩ := operand_absolute (beq_iff_eq.1 (legal_of_mnemonic hi))
  refine ⟨w, ho, fun h => ?_⟩
  have hcall := jumpSubroutine_of_plain (mn := .jsr) (w := w) h
  have hexec : exec i s = .next (s.calledAt .jsr w) := by rw [exec_of_mnemonic hi, ho, ruleOf, hcall, finish_ok]
  dsimp only
  rw [ofNat_hiByte, ofNat_loByte]
  refine ⟨_, hexec, rfl, s.pushedWord_sp _, ⟨s.pushedWord_readByte_hi _, s.pushedWord_readByte_lo _,
    s.pushedWord_accesses _⟩, s.pushedWord_diags _,
    (jumpSubroutine_writesOnly hcall).frame (List.Subset.refl _) rfl fun a ha => ?_⟩
  simp only [List.mem_cons, List.not_mem_nil, or_false, not_or] at ha
  obtain ⟨hhi, hlo⟩ := ha
  exact s.pushedWord_readByte_other _ hhi hlo

/-! ### RTS -/

section
variable {mn : Mnemonic} {s : State}

/-- The state RTS leaves on the plain-RAM bus. -/
def State.returned (s : State) (mn : Mnemonic) : State := s.poppedWord.jumped mn .implied (s.topWord + 1)

theorem returnSubroutine_of_plain (h : s.plainRam) : returnSubroutine mn s = .ok (s.returned mn) := by
  rw [returnSubroutine, popWord_of_plain h, byte_sub_one_sub_one]
  rfl

end

/-- Settles O38: on the plain-RAM bus RTS leaves `State.returned`; the forms by computation. -/
theorem rtsPopsAndIncrements : Obligations.RtsPopsAndIncrements := by
  refine ⟨fun i s hi => ⟨instr_onlyBusFaults i s, fun h => ?_⟩, hasForms_of_check (by decide)⟩
  have hret := returnSubroutine_of_plain (mn := .rts) h
  have hexec : exec i s = .next (s.returned .rts) := by rw [exec_of_mnemonic hi, ruleOf, hret, finish_ok]
  refine ⟨_, hexec, s.poppedWord_sp, ⟨?_, s.poppedWord_accesses⟩, s.poppedWord_diags,
    (returnSubroutine_writesOnly hret).frame (List.Subset.refl _) rfl fun _ _ => rfl⟩
  rw [← joinBytes_toNat]
  exact BitVec.toNat_add _ _

/-! ### JSR, then RTS -/

section
variable {mn : Mnemonic} {s t : State} {w : Word} {v : Byte}

theorem rule_of_exec {i : Instr} (hi : i.mnemonic = mn) (h : exec i s = .next t) : ruleOf mn i.operand s = .ok t :=
  finish_next.1 (exec_of_mnemonic hi s ▸ h)

/-- Where RAM stands behind every address, a push that completes leaves what it leaves on the plain-RAM bus. -/
theorem push_noWindows (hw : s.windows = []) (h : push v s = .ok t) : t = s.pushed v := by
  obtain ⟨m, hm, rfl⟩ := push_ok_iff.1 h
  rw [busWrite_eq_write hw hm, State.pushedTo_self]

theorem pushWord_noWindows (hw : s.windows = []) (h : pushWord w s = .ok t) : t = s.pushedWord w := by
  obtain ⟨s1, h1, h2⟩ := bind_ok.1 h
  obtain rfl := push_noWindows hw h1
  exact push_noWindows (by simpa using hw) h2

/-- Pushing a word, on any bus: SP, the trace, and memory where RAM stands behind every address. -/
theorem pushWord_ok (h : pushWord w s = .ok t) : t.sp = s.sp + 2 ∧
    t.accesses = s.accesses ++ [⟨.write, stackAddress s.sp, hiByte w⟩, ⟨.write, stackAddress (s.sp + 1), loByte w⟩] ∧
    (s.windows = [] → t = s.pushedWord w) := by
  obtain ⟨m, n, -, -, rfl⟩ := pushWord_ok_iff.1 h
  exact ⟨byte_add_one_add_one s.sp, by simp, fun hw => pushWord_noWindows hw h⟩

/-- Popping a word, on any bus: the bytes are those of the trace, and those of memory where RAM stands behind every
address. -/
theorem popWord_ok (h : popWord s = .ok (w, t)) : ∃ lo hi, w = joinBytes hi lo ∧ t = (s.poppedAs lo).poppedAs hi ∧
    (s.windows = [] → lo = s.readByte (stackAddress (s.sp - 1)) ∧ hi = s.readByte (stackAddress (s.sp - 2))) := by
  obtain ⟨lo, hi, hlo, hhi, rfl, rfl⟩ := popWord_ok_iff.1 h
  refine ⟨lo, hi, rfl, rfl, fun hw => ⟨busRead_eq_readByte hw hlo, ?_⟩⟩
  rw [← byte_sub_one_sub_one]
  exact busRead_eq_readByte (s := s.poppedAs lo) hw hhi

/-- What JSR leaves on any bus: SP, the trace, and the return address in memory where RAM stands behind every address. -/
theorem jumpSubroutine_ok (h : jumpSubroutine mn (.absolute w) s = .ok t) : t.sp = s.sp + 2 ∧
    t.accesses = s.accesses ++
      [⟨.write, stackAddress s.sp, hiByte (s.pc - 1)⟩, ⟨.write, stackAddress (s.sp + 1), loByte (s.pc - 1)⟩] ∧
    (s.windows = [] → t.readByte (stackAddress s.sp) = hiByte (s.pc - 1) ∧
      t.readByte (stackAddress (s.sp + 1)) = loByte (s.pc - 1)) := by
  obtain ⟨s1, h1, h⟩ := bind_ok.1 (show (pushWord (s.pc - 1) s >>= _) = Except.ok t from h)
  cases h
  obtain ⟨hsp, htrace, hmem⟩ := pushWord_ok h1
  refine ⟨hsp, htrace, fun hw => ?_⟩
  rw [hmem hw]
  exact ⟨s.pushedWord_readByte_hi _, s.pushedWord_readByte_lo _⟩

/-- What RTS leaves on any bus: PC from the two bytes popped, which are those of the trace, and those of memory where RAM
stands behind every address. -/
theorem returnSubroutine_ok (h : returnSubroutine mn s = .ok t) : ∃ lo hi, t.pc = joinBytes hi lo + 1 ∧
    t.sp = s.sp - 2 ∧
    t.accesses = s.accesses ++ [⟨.read, stackAddress (s.sp - 1), lo⟩, ⟨.read, stackAddress (s.sp - 2), hi⟩] ∧
    (s.windows = [] → lo = s.readByte (stackAddress (s.sp - 1)) ∧ hi = s.readByte (stackAddress (s.sp - 2))) := by
  obtain ⟨⟨x, s1⟩, h1, h⟩ := bind_ok.1 h
  cases h
  obtain ⟨lo, hi, rfl, rfl, hmem⟩ := popWord_ok h1
  refine ⟨lo, hi, rfl, byte_sub_one_sub_one s.sp, ?_, hmem⟩
  rw [← byte_sub_one_sub_one]
  exact State.poppedAs_accesses _ _ |>.trans (List.append_assoc _ _ _)

/-- The word after the one taken apart into the bytes JSR pushes is the PC JSR found. -/
theorem joinBytes_pred_add_one (pc : Word) : joinBytes (hiByte (pc - 1)) (loByte (pc - 1)) + 1 = pc := by
  rw [joinBytes_hiByte_loByte, BitVec.sub_add_cancel]

theorem exec_jsr_ok {i : Instr} (hi : i.mnemonic = .jsr) (h : exec i s = .next t) :
    ∃ w, jumpSubroutine .jsr (.absolute w) s = .ok t := by
  obtain ⟨w, ho⟩ := operand_absolute (beq_iff_eq.1 (legal_of_mnemonic hi))
  exact ⟨w, ho ▸ rule_of_exec hi h⟩

end

/-- Settles O39: the bytes JSR pushes are PC minus 1 (`jumpSubroutine_ok`), and RTS goes to the word it pops plus 1
(`returnSubroutine_ok`), so that both traces, or both memories, give the PC back. -/
theorem jsrThenRtsReturns : Obligations.JsrThenRtsReturns := by
  refine ⟨fun i j s t u v hi lo hjsr hrts hs hsp hu htrace vtrace => ?_,
    fun i j s t u v hjsr hrts hsw huw hs hsp hhi hlo hu => ?_⟩
  · obtain ⟨w, hcall⟩ := exec_jsr_ok hjsr hs
    obtain ⟨htsp, hpushed, -⟩ := jumpSubroutine_ok hcall
    obtain ⟨lo', hi', hpc, hvsp, hpopped, -⟩ := returnSubroutine_ok (rule_of_exec hrts hu)
    rw [htrace] at hpushed
    rw [vtrace] at hpopped
    simp only [List.append_cancel_left_eq, List.cons.injEq, BusAccess.mk.injEq, true_and, and_true] at hpushed hpopped
    obtain ⟨rfl, rfl⟩ := hpushed
    obtain ⟨⟨-, rfl⟩, -, rfl⟩ := hpopped
    exact ⟨hpc.trans (joinBytes_pred_add_one s.pc), by rw [hvsp, hsp, htsp, BitVec.add_sub_cancel]⟩
  · obtain ⟨w, hcall⟩ := exec_jsr_ok hjsr hs
    obtain ⟨htsp, -, hpushed⟩ := jumpSubroutine_ok hcall
    obtain ⟨lo', hi', hpc, hvsp, -, hpopped⟩ := returnSubroutine_ok (rule_of_exec hrts hu)
    obtain ⟨hthi, htlo⟩ := hpushed hsw
    obtain ⟨rfl, rfl⟩ := hpopped huw
    have hlast : s.sp + 2 - 1 = s.sp + 1 := by bv_omega
    rw [hsp, htsp, hlast, BitVec.add_sub_cancel, hhi, hlo, hthi, htlo, joinBytes_pred_add_one] at hpc
    exact ⟨hpc, by rw [hvsp, hsp, htsp, BitVec.add_sub_cancel]⟩

/-! ### PHP, PHA, PLP, PLA, NOP -/

section
variable {mn : Mnemonic} {s : State} {v : Byte}

/-- The state a push instruction leaves on the plain-RAM bus. -/
def State.pushedByte (s : State) (mn : Mnemonic) (v : Byte) : State := (s.pushed v).charge mn .implied 0

theorem pushByte_of_plain (h : s.plainRam) : pushByte mn v s = .ok (s.pushedByte mn v) := by
  rw [pushByte, push_of_plain h]
  rfl

/-- The rule `pushByte` is a push law for each mnemonic that has it. -/
theorem pushLaw_of_rule {pushed : State → Byte} (hrule : ∀ o s, ruleOf mn o s = pushByte mn (pushed s) s) :
    PushLaw mn pushed := by
  refine fun i s hi => ⟨instr_onlyBusFaults i s, fun h => ?_⟩
  have hpush := pushByte_of_plain (mn := mn) (v := pushed s) h
  have hexec : exec i s = .next (s.pushedByte mn (pushed s)) := by rw [exec_of_mnemonic hi, hrule, hpush, finish_ok]
  exact ⟨_, hexec, rfl, s.pushed_readByte_same _, rfl, rfl, rfl,
    (pushByte_writesOnly hpush).frame (List.Subset.refl _) rfl fun a ha =>
      s.pushed_readByte_other _ (by simpa using ha)⟩

end

/-- Settles O40: both have the rule `pushByte` (`pushLaw_of_rule`); the forms by computation. -/
theorem pushInstructions : Obligations.PushInstructions :=
  ⟨pushLaw_of_rule fun _ _ => rfl, pushLaw_of_rule fun _ _ => rfl, hasForms_of_check (by decide),
    hasForms_of_check (by decide)⟩

section
variable {mn : Mnemonic} {s : State}

/-- The byte on the top of the stack. -/
def State.topByte (s : State) : Byte := s.readByte (stackAddress (s.sp - 1))

/-- The state PLP leaves on the plain-RAM bus. -/
def State.pulledStatus (s : State) (mn : Mnemonic) : State := (s.popped.setP s.topByte).charge mn .implied 0

theorem pullStatus_of_plain (h : s.plainRam) : pullStatus mn s = .ok (s.pulledStatus mn) := by
  rw [pullStatus, pop_of_plain h]
  rfl

/-- The state PLA leaves on the plain-RAM bus. -/
def State.pulledAccumulator (s : State) (mn : Mnemonic) : State :=
  ((s.popped.setA s.topByte).setNZ s.topByte).charge mn .implied 0

theorem pullAccumulator_of_plain (h : s.plainRam) : pullAccumulator mn s = .ok (s.pulledAccumulator mn) := by
  rw [pullAccumulator, pop_of_plain h]
  rfl

end

/-- Settles O41: on the plain-RAM bus each is a pop, then P written whole, or A with N and Z; the forms by computation. -/
theorem pullInstructions : Obligations.PullInstructions := by
  refine ⟨fun i s hi => ⟨instr_onlyBusFaults i s, fun h => ?_⟩, fun i s hi => ⟨instr_onlyBusFaults i s, fun h => ?_⟩,
    hasForms_of_check (by decide), hasForms_of_check (by decide)⟩
  · have hpull := pullStatus_of_plain (mn := .plp) h
    have hexec : exec i s = .next (s.pulledStatus .plp) := by rw [exec_of_mnemonic hi, ruleOf, hpull, finish_ok]
    exact ⟨_, hexec, rfl, rfl, rfl, rfl, rfl,
      (pullStatus_writesOnly hpull).frame (List.Subset.refl _) rfl fun _ _ => rfl⟩
  · have hpull := pullAccumulator_of_plain (mn := .pla) h
    have hexec : exec i s = .next (s.pulledAccumulator .pla) := by rw [exec_of_mnemonic hi, ruleOf, hpull, finish_ok]
    exact ⟨_, hexec, rfl, rfl, getFlag_setNZ_n _ _, getFlag_setNZ_z _ _, rfl, rfl, rfl,
      (pullAccumulator_writesOnly hpull).frame (by simp) rfl fun _ _ => rfl⟩

/-- Settles O42: the rule of NOP reports its base cycles and does nothing else; the forms by computation. -/
theorem nopOnlyConsumesCycles : Obligations.NopOnlyConsumesCycles :=
  ⟨fun _ s hi => exec_of_mnemonic hi s, hasForms_of_check (by decide)⟩

end Sys2Proof.Machine
end

section
/-! PROOF. The software interrupt and the return from it (49_jumps_stack.md R384, R385; 60_exceptions.md R520, R521). -/

namespace Sys2Proof.Machine

/-- The diagnostics of three pushes in a row: at most one is made at SP = 0xFF (20_memory.md R66). -/
theorem pushDiags_three (sp : Byte) :
    pushDiags sp ++ pushDiags (sp + 1) ++ pushDiags (sp + 2) = if sp.toNat ≥ 0xFD then [.stackOverflow] else [] := by
  rw [pushDiags_two]
  by_cases hlast : sp = 0xFD
  · subst hlast; rfl
  · rw [pushDiags_of_ne (by bv_omega), List.append_nil]
    exact if_congr (by bv_omega) rfl rfl

/-- The diagnostics of three pops in a row: at most one is made at SP = 0x00 (20_memory.md R66). -/
theorem popDiags_three (sp : Byte) :
    popDiags sp ++ popDiags (sp - 1) ++ popDiags (sp - 2) = if sp.toNat ≤ 0x02 then [.stackUnderflow] else [] := by
  rw [popDiags_two]
  by_cases hlast : sp = 0x02
  · subst hlast; rfl
  · rw [popDiags_of_ne (by bv_omega), List.append_nil]
    exact if_congr (by bv_omega) rfl rfl

/-! ### What BRK pushes -/

section
variable (s : State) (w : Word)

/-- The state that the three pushes of a trap leave on the plain-RAM bus: a word, then P with bits 4 and 5 set. -/
def State.pushedTrap : State := (s.pushedWord w).pushed (pushedP s.p)

theorem State.pushedTrap_sp : (s.pushedTrap w).sp = s.sp + 3 := by
  rw [State.pushedTrap, State.pushed_sp, State.pushedWord_sp, byte_add_two_add_one]

theorem State.pushedTrap_accesses : (s.pushedTrap w).accesses = s.accesses ++
    [⟨.write, stackAddress s.sp, hiByte w⟩, ⟨.write, stackAddress (s.sp + 1), loByte w⟩,
      ⟨.write, stackAddress (s.sp + 2), pushedP s.p⟩] := by
  rw [State.pushedTrap, State.pushed_accesses, State.pushedWord_accesses, State.pushedWord_sp, List.append_assoc]
  rfl

theorem State.pushedTrap_diags :
    (s.pushedTrap w).diags = s.diags ++ if s.sp.toNat ≥ 0xFD then [.stackOverflow] else [] := by
  rw [State.pushedTrap, State.pushed_diags, State.pushedWord_diags, State.pushedWord_sp, List.append_assoc,
    ← pushDiags_two, pushDiags_three]

theorem State.pushedTrap_readByte_other {b : Word} (hhi : b ≠ stackAddress s.sp) (hlo : b ≠ stackAddress (s.sp + 1))
    (hp : b ≠ stackAddress (s.sp + 2)) : (s.pushedTrap w).readByte b = s.readByte b := by
  rw [← State.pushedWord_sp s w] at hp
  rw [State.pushedTrap, State.pushed_readByte_other _ _ hp, State.pushedWord_readByte_other _ _ hhi hlo]

theorem State.pushedTrap_readByte_hi : (s.pushedTrap w).readByte (stackAddress s.sp) = hiByte w := by
  have hne : stackAddress s.sp ≠ stackAddress (s.pushedWord w).sp := by
    rw [State.pushedWord_sp, ← byte_add_one_add_one]
    exact stackAddress_ne_next_next s.sp
  rw [State.pushedTrap, State.pushed_readByte_other _ _ hne, State.pushedWord_readByte_hi]

theorem State.pushedTrap_readByte_lo : (s.pushedTrap w).readByte (stackAddress (s.sp + 1)) = loByte w := by
  have hne : stackAddress (s.sp + 1) ≠ stackAddress (s.pushedWord w).sp := by
    rw [State.pushedWord_sp, ← byte_add_one_add_one]
    exact stackAddress_ne_next (s.sp + 1)
  rw [State.pushedTrap, State.pushed_readByte_other _ _ hne, State.pushedWord_readByte_lo]

theorem State.pushedTrap_readByte_p : (s.pushedTrap w).readByte (stackAddress (s.sp + 2)) = pushedP s.p := by
  rw [← State.pushedWord_sp s w]
  exact State.pushed_readByte_same _ _

end

/-! ### BRK -/

section
variable {mn : Mnemonic} {s : State}

/-- The state BRK leaves on the plain-RAM bus. -/
def State.trapped (s : State) (mn : Mnemonic) : State :=
  ((((s.pushedTrap s.pc).setFlag .i true).withReads [0xFFFE, 0xFFFF]).setPC
    (joinBytes (s.readByte 0xFFFF) (s.readByte 0xFFFE))).charge mn .implied 0

theorem softwareInterrupt_of_plain (h : s.plainRam) : softwareInterrupt mn s = .ok (s.trapped mn) := by
  rw [softwareInterrupt, takeTrap_of_plain h _ _ (by decide) (by decide)]
  rfl

theorem State.trapped_sp : (s.trapped mn).sp = s.sp + 3 := s.pushedTrap_sp s.pc

theorem State.trapped_readByte (a : Word) : (s.trapped mn).readByte a = (s.pushedTrap s.pc).readByte a := by
  simp [State.trapped]

theorem State.trapped_diags : (s.trapped mn).diags = s.diags ++ if s.sp.toNat ≥ 0xFD then [.stackOverflow] else [] :=
  s.pushedTrap_diags s.pc

/-- The pushes touch only the stack page, so the vector is read as it was before them. -/
theorem State.trapped_accesses : (s.trapped mn).accesses = s.accesses ++
    [⟨.write, stackAddress s.sp, hiByte s.pc⟩, ⟨.write, stackAddress (s.sp + 1), loByte s.pc⟩,
      ⟨.write, stackAddress (s.sp + 2), pushedP s.p⟩, ⟨.read, 0xFFFE, s.readByte 0xFFFE⟩,
      ⟨.read, 0xFFFF, s.readByte 0xFFFF⟩] := by
  have hvector : ∀ w : Word, 0x0200 ≤ w.toNat → (s.pushedTrap s.pc).readByte w = s.readByte w := fun w hw =>
    s.pushedTrap_readByte_other s.pc (ne_stackAddress _ w hw) (ne_stackAddress _ w hw) (ne_stackAddress _ w hw)
  calc
    (s.trapped mn).accesses = (s.pushedTrap s.pc).accesses ++
        [⟨.read, 0xFFFE, (s.pushedTrap s.pc).readByte 0xFFFE⟩,
          ⟨.read, 0xFFFF, (s.pushedTrap s.pc).readByte 0xFFFF⟩] := rfl
    _ = _ := by
      rw [State.pushedTrap_accesses, hvector _ (by decide), hvector _ (by decide), List.append_assoc]
      rfl

theorem State.trapped_frame (h : s.plainRam) :
    Frame [.sp] [.i] [stackAddress s.sp, stackAddress (s.sp + 1), stackAddress (s.sp + 2)] s (s.trapped mn) := by
  have hw : WritesOnly [.sp] [.i] true s (s.trapped mn) := softwareInterrupt_writesOnly (softwareInterrupt_of_plain h)
  refine hw.frame (List.Subset.refl _) (by simp [State.trapped, State.pushedTrap, State.pushedWord]) fun a ha => ?_
  simp only [List.mem_cons, List.not_mem_nil, or_false, not_or] at ha
  obtain ⟨hhi, hlo, hp⟩ := ha
  rw [State.trapped_readByte, State.pushedTrap_readByte_other _ _ hhi hlo hp]

end

/-- Settles O43: on the plain-RAM bus BRK leaves `State.trapped`, whose bytes are those of `State.pushedTrap`; the forms by
computation. -/
theorem brkTakesTheTrap : Obligations.BrkTakesTheTrap := by
  refine ⟨fun i s hi => ⟨instr_onlyBusFaults i s, fun h => ?_⟩, hasForms_of_check (by decide)⟩
  have hbrk := softwareInterrupt_of_plain (mn := .brk) h
  have hexec : exec i s = .next (s.trapped .brk) := by rw [exec_of_mnemonic hi, ruleOf, hbrk, finish_ok]
  rw [ofNat_hiByte, ofNat_loByte]
  refine ⟨_, hexec, State.trapped_sp, ?_, ?_, ?_, getFlag_setFlag_same _ _ _, joinBytes_toNat _ _, State.trapped_diags,
    State.trapped_accesses, State.trapped_frame h⟩
  · rw [State.trapped_readByte, State.pushedTrap_readByte_hi]
  · rw [State.trapped_readByte, State.pushedTrap_readByte_lo]
  · rw [State.trapped_readByte, State.pushedTrap_readByte_p]
    rfl

/-! ### RTI -/

section
variable {mn : Mnemonic} {s : State}

/-- The state RTI leaves when its three pops give `p`, `lo` and `hi`. -/
def State.trapReturned (s : State) (mn : Mnemonic) (p lo hi : Byte) : State :=
  (((((s.poppedAs p).setP p).poppedAs lo).poppedAs hi).setPC (joinBytes hi lo)).charge mn .implied 0

theorem State.trapReturned_sp (p lo hi : Byte) : (s.trapReturned mn p lo hi).sp = s.sp - 3 := by
  rw [← byte_sub_two_sub_one, ← byte_sub_one_sub_one]
  rfl

theorem State.trapReturned_accesses (p lo hi : Byte) : (s.trapReturned mn p lo hi).accesses = s.accesses ++
    [⟨.read, stackAddress (s.sp - 1), p⟩, ⟨.read, stackAddress (s.sp - 2), lo⟩,
      ⟨.read, stackAddress (s.sp - 3), hi⟩] := by
  rw [← byte_sub_two_sub_one, ← byte_sub_one_sub_one]
  simp [State.trapReturned]

theorem State.trapReturned_diags (p lo hi : Byte) :
    (s.trapReturned mn p lo hi).diags = s.diags ++ if s.sp.toNat ≤ 0x02 then [.stackUnderflow] else [] := by
  rw [← popDiags_three, ← byte_sub_one_sub_one]
  simp [State.trapReturned]

theorem returnInterrupt_of_plain (h : s.plainRam) : returnInterrupt mn s =
    .ok (s.trapReturned mn (s.readByte (stackAddress (s.sp - 1))) (s.readByte (stackAddress (s.sp - 2)))
      (s.readByte (stackAddress (s.sp - 3)))) := by
  rw [returnInterrupt, returnFromTrap_of_plain h, ← byte_sub_two_sub_one, ← byte_sub_one_sub_one]
  rfl

end

/-- Settles O44: on the plain-RAM bus RTI leaves `State.trapReturned` of the three bytes on the stack; the forms by
computation. -/
theorem rtiRestoresStatusAndPC : Obligations.RtiRestoresStatusAndPC := by
  refine ⟨fun i s hi => ⟨instr_onlyBusFaults i s, fun h => ?_⟩, hasForms_of_check (by decide)⟩
  have hrti := returnInterrupt_of_plain (mn := .rti) h
  have hexec := exec_of_mnemonic hi s
  rw [ruleOf, hrti, finish_ok] at hexec
  exact ⟨_, hexec, State.trapReturned_sp _ _ _, rfl, ⟨joinBytes_toNat _ _, State.trapReturned_accesses _ _ _⟩,
    State.trapReturned_diags _ _ _,
    (returnInterrupt_writesOnly hrti).frame (List.Subset.refl _) (by simp [State.trapReturned])
      fun _ _ => by simp [State.trapReturned]⟩

/-! ### BRK, then RTI -/

section
variable {mn : Mnemonic} {s t : State}

/-- The three pushes of a trap, on any bus: SP, the trace, and memory where RAM stands behind every address. -/
theorem pushTrap_ok {u : State} {w : Word} (hword : pushWord w s = .ok t) (hp : push (pushedP t.p) t = .ok u) :
    u.sp = s.sp + 3 ∧
    u.accesses = s.accesses ++ [⟨.write, stackAddress s.sp, hiByte w⟩, ⟨.write, stackAddress (s.sp + 1), loByte w⟩,
      ⟨.write, stackAddress (s.sp + 2), pushedP s.p⟩] ∧
    (s.windows = [] → u = s.pushedTrap w) := by
  obtain ⟨hsp, htrace, hmem⟩ := pushWord_ok hword
  have htp : t.p = s.p := by
    obtain ⟨m, n, -, -, rfl⟩ := pushWord_ok_iff.1 hword
    rfl
  obtain ⟨m, -, hu⟩ := push_ok_iff.1 hp
  refine ⟨?_, ?_, fun hw => ?_⟩
  · rw [hu, State.pushedTo_sp, hsp, byte_add_two_add_one]
  · rw [hu, State.pushedTo_accesses, htrace, hsp, htp, List.append_assoc]
    rfl
  · obtain rfl := hmem hw
    exact push_noWindows hw (htp ▸ hp)

/-- What BRK leaves on any bus: SP, the trace up to the vector reads, and the three bytes in memory where RAM stands behind
every address. -/
theorem softwareInterrupt_ok (h : softwareInterrupt mn s = .ok t) : t.sp = s.sp + 3 ∧
    s.accesses ++ [⟨.write, stackAddress s.sp, hiByte s.pc⟩, ⟨.write, stackAddress (s.sp + 1), loByte s.pc⟩,
      ⟨.write, stackAddress (s.sp + 2), pushedP s.p⟩] <+: t.accesses ∧
    (s.windows = [] → ∀ a, t.readByte a = (s.pushedTrap s.pc).readByte a) := by
  obtain ⟨t1, h1, h⟩ := bind_ok.1 h
  obtain ⟨s1, hword, h1⟩ := bind_ok.1 h1
  obtain ⟨s2, hp, h1⟩ := bind_ok.1 h1
  obtain ⟨⟨target, s3⟩, hvector, h1⟩ := bind_ok.1 h1
  cases h1
  cases h
  have hread : SameButTrace (s2.setFlag .i true) s3 := read16_same hvector
  have hgrows := (read16_runs (E := fun _ => False) _ _).trace hvector
  obtain ⟨hsp, htrace, hmem⟩ := pushTrap_ok hword hp
  refine ⟨hread.sp.trans hsp, htrace ▸ hgrows, fun hw a => ?_⟩
  rw [← hmem hw]
  simpa using hread.readByte a

/-- What RTI leaves on any bus: the bytes popped are those of the trace, and those of memory where RAM stands behind every
address. -/
theorem returnInterrupt_ok (h : returnInterrupt mn s = .ok t) : ∃ p lo hi, t = s.trapReturned mn p lo hi ∧
    (s.windows = [] → p = s.readByte (stackAddress (s.sp - 1)) ∧ lo = s.readByte (stackAddress (s.sp - 2)) ∧
      hi = s.readByte (stackAddress (s.sp - 3))) := by
  obtain ⟨t1, h1, h⟩ := bind_ok.1 h
  obtain ⟨⟨p, s1⟩, hp, h1⟩ := bind_ok.1 h1
  obtain ⟨⟨target, s2⟩, hword, h1⟩ := bind_ok.1 h1
  cases h1
  cases h
  obtain ⟨hread, rfl⟩ := pop_ok_iff.1 hp
  obtain ⟨lo, hi, rfl, rfl, hmem⟩ := popWord_ok hword
  refine ⟨p, lo, hi, rfl, fun hw => ?_⟩
  obtain ⟨rfl, rfl⟩ := hmem hw
  rw [← byte_sub_two_sub_one, ← byte_sub_one_sub_one]
  exact ⟨busRead_eq_readByte hw hread, rfl, congrArg (s.readByte <| stackAddress ·) (byte_sub_one_sub_one (s.sp - 1)).symm⟩

end

/-- Settles O45: BRK pushes PC and P with bits 4 and 5 set (`softwareInterrupt_ok`), and RTI takes P and PC from the three
bytes it pops (`returnInterrupt_ok`), so that both traces, or both memories, give them back. -/
theorem brkThenRtiReturns : Obligations.BrkThenRtiReturns := by
  refine ⟨fun i j s t u v hi lo p vector hbrk hrti hs hsp hu htrace vtrace => ?_,
    fun i j s t u v hbrk hrti hsw huw hs hsp hbytes hu => ?_⟩
  · obtain ⟨htsp, hpushed, -⟩ := softwareInterrupt_ok (rule_of_exec hbrk hs)
    obtain ⟨p', lo', hi', rfl, -⟩ := returnInterrupt_ok (rule_of_exec hrti hu)
    rw [htrace, List.append_assoc, List.prefix_append_right_inj] at hpushed
    rw [State.trapReturned_accesses] at vtrace
    simp only [List.cons_append, List.cons_prefix_cons, List.append_cancel_left_eq, List.cons.injEq, BusAccess.mk.injEq,
      true_and, and_true] at hpushed vtrace
    obtain ⟨rfl, rfl, rfl, -⟩ := hpushed
    obtain ⟨⟨-, rfl⟩, ⟨-, rfl⟩, -, rfl⟩ := vtrace
    exact ⟨joinBytes_hiByte_loByte s.pc, rfl, by rw [State.trapReturned_sp, hsp, htsp, BitVec.add_sub_cancel]⟩
  · obtain ⟨htsp, -, hpushed⟩ := softwareInterrupt_ok (rule_of_exec hbrk hs)
    obtain ⟨p, lo, hi, rfl, hpopped⟩ := returnInterrupt_ok (rule_of_exec hrti hu)
    obtain ⟨hp, hlo, hhi⟩ := hpopped huw
    have hsp1 : u.sp - 1 = s.sp + 2 := by rw [hsp, htsp]; bv_omega
    have hsp2 : u.sp - 2 = s.sp + 1 := by rw [hsp, htsp]; bv_omega
    have hsp3 : u.sp - 3 = s.sp + 0 := by rw [hsp, htsp]; bv_omega
    have hsp0 : s.sp + 0 = s.sp := BitVec.add_zero s.sp
    rw [hsp1, hbytes 2 (by decide), hpushed hsw, State.pushedTrap_readByte_p] at hp
    rw [hsp2, hbytes 1 (by decide), hpushed hsw, State.pushedTrap_readByte_lo] at hlo
    rw [hsp3, hbytes 0 (by decide), hpushed hsw, hsp0, State.pushedTrap_readByte_hi] at hhi
    subst hp hlo hhi
    exact ⟨joinBytes_hiByte_loByte s.pc, rfl, by rw [State.trapReturned_sp, hsp, htsp, BitVec.add_sub_cancel]⟩

end Sys2Proof.Machine
end

section
/-! PROOF. The cycle counts (70_reset_and_hazards.md R610 to R612). -/

namespace Sys2Proof.Machine

/-! ### Branches -/

section
variable {mn : Mnemonic} {f : Flag} {val : Bool} {s : State} {off : Byte}

theorem State.branched_cycles (hbase : baseCycles mn .relative = some 2) : (s.branched mn f val off).cycles =
    some (2 + branchExtra s.pc (s.pc + sext off) (s.flag f == val)) := by
  rw [State.branched, State.charge_cycles, hbase, Option.map_some]

/-- Two addresses are in one page exactly when their high bytes are the same. -/
theorem hiByte_eq_iff {a b : Word} : hiByte a = hiByte b ↔ a.toNat / 256 = b.toNat / 256 := by
  rw [← hiByte_toNat, ← hiByte_toNat, BitVec.toNat_inj]

theorem branchExtra_taken (pc target : Word) :
    2 + branchExtra pc target true = if target.toNat / 256 = pc.toNat / 256 then 3 else 4 := by
  simp only [branchExtra, if_true, hiByte_eq_iff]
  split <;> rfl

/-- The rule `branch` is a law of branch cycles for each mnemonic that has it, with base count 2. -/
theorem branchCyclesLaw_of_rule (hrule : ∀ off, ruleOf mn (.relative off) = branch mn f val off)
    (hlegal : ∀ m, legalMode mn m = true → m = .relative) (hbase : baseCycles mn .relative = some 2) :
    BranchCyclesLaw mn f val := by
  intro i s hi
  obtain ⟨off, ho⟩ := operand_relative (hlegal _ (legal_of_mnemonic hi))
  have hexec : exec i s = .next (s.branched mn f val off) := by
    rw [exec_of_mnemonic hi, ho, hrule, branch_eq, finish_ok]
  refine ⟨off, _, ho, hexec, fun hnot => ?_, fun htaken => ?_⟩
  · rw [State.branched_pc, if_neg hnot, State.branched_cycles hbase, beq_false_of_ne hnot]
    exact ⟨rfl, rfl⟩
  · rw [State.branched_pc, if_pos htaken, State.branched_cycles hbase, beq_iff_eq.2 htaken, branchExtra_taken]
    exact ⟨rfl, rfl⟩

end

/-- Settles O48: each of the eight has the rule `branch` with its flag and the value tested (`branchCyclesLaw_of_rule`). -/
theorem branchCycles : Obligations.BranchCycles :=
  ⟨branchCyclesLaw_of_rule (fun _ => rfl) (fun _ => beq_iff_eq.1) rfl,
    branchCyclesLaw_of_rule (fun _ => rfl) (fun _ => beq_iff_eq.1) rfl,
    branchCyclesLaw_of_rule (fun _ => rfl) (fun _ => beq_iff_eq.1) rfl,
    branchCyclesLaw_of_rule (fun _ => rfl) (fun _ => beq_iff_eq.1) rfl,
    branchCyclesLaw_of_rule (fun _ => rfl) (fun _ => beq_iff_eq.1) rfl,
    branchCyclesLaw_of_rule (fun _ => rfl) (fun _ => beq_iff_eq.1) rfl,
    branchCyclesLaw_of_rule (fun _ => rfl) (fun _ => beq_iff_eq.1) rfl,
    branchCyclesLaw_of_rule (fun _ => rfl) (fun _ => beq_iff_eq.1) rfl⟩

/-! ### The table and the counts the rules charge -/

/-- In the table of R610 the mode of an instruction that is no branch has one cell: the base count the rules charge, marked
where they charge a page crossing. -/
theorem cycleCells_of_instr (i : Instr) : i.mode = .relative ∨ ∃ n, baseCycles i.mnemonic i.mode = some n ∧
    (cycleCells i.mnemonic).filter (fun c => c.1 = i.mode) = [(i.mode, n, pageCrossCosts i.mnemonic i.mode)] := by
  cases i with
  | bcc off | bcs off | beq off | bmi off | bne off | bpl off | bvc off | bvs off => exact .inl rfl
  | _ => exact .inr ⟨_, rfl, rfl⟩

/-- The check: every cell of a mnemonic's row is an instruction's. -/
def cellsCheck (mn : Mnemonic) : Bool :=
  (cycleCells mn).all fun c => formInstrs.any fun i => decide (i.mnemonic = mn ∧ i.mode = c.1)

theorem cellsCheck_eq_true (mn : Mnemonic) : cellsCheck mn = true := by
  cases mn <;> decide

theorem instr_of_cell (mn : Mnemonic) : ∀ c ∈ cycleCells mn, ∃ i : Instr, i.mnemonic = mn ∧ i.mode = c.1 := by
  intro c hc
  obtain ⟨i, -, hi⟩ := List.any_eq_true.1 (List.all_eq_true.1 (cellsCheck_eq_true mn) c hc)
  exact ⟨i, of_decide_eq_true hi⟩

section
variable {mn : Mnemonic} {o : Operand} {s s1 t : State}

/-- The count an instruction reports: the base count, plus one where page crossings are charged and the resolver reports
one (70_reset_and_hazards.md R610, R611). -/
def Charged (mn : Mnemonic) (o : Operand) (s t : State) : Prop :=
  (pageCrossCosts mn o.mode = false → t.cycles = baseCycles mn o.mode) ∧
  (pageCrossCosts mn o.mode = true → ∃ r s1, resolveAddress o s = .ok (r, s1) ∧
    t.cycles = (baseCycles mn o.mode).map (· + if r.crossed then 1 else 0))

theorem charged_of_resolved {r : Resolved} (hr : resolveAddress o s = .ok (r, s1))
    (ht : t.cycles = (baseCycles mn o.mode).map (· + pageCrossExtra mn o.mode r.crossed)) : Charged mn o s t :=
  ⟨fun hc => by simp [ht, pageCrossExtra, hc], fun hc => ⟨r, s1, hr, by simp [ht, pageCrossExtra, hc]⟩⟩

theorem charged_of_flat (hc : pageCrossCosts mn o.mode = false) (ht : t.cycles = (baseCycles mn o.mode).map (· + 0)) :
    Charged mn o s t :=
  ⟨fun _ => by simp [ht], fun h => by simp [hc] at h⟩

theorem pageCrossCosts_immediate (mn : Mnemonic) : pageCrossCosts mn .immediate = false := by
  cases mn <;> rfl

/-- An operand read on the bus is at the resolver's address, and its page-cross indication is the resolver's. -/
theorem charged_of_read {m : OperandValue} (hm : resolveOperand o s = .ok (m, s1))
    (ht : t.cycles = (baseCycles mn o.mode).map (· + pageCrossExtra mn o.mode m.crossed)) : Charged mn o s t := by
  by_cases ho : o.mode = .immediate
  · have hc : pageCrossCosts mn o.mode = false := ho ▸ pageCrossCosts_immediate mn
    exact charged_of_flat hc (by simpa [pageCrossExtra, hc] using ht)
  · rw [resolveOperand_eq ho] at hm
    obtain ⟨⟨r, s2⟩, hr, hm⟩ := bind_ok.1 hm
    obtain ⟨⟨v, s3⟩, -, hm⟩ := bind_ok.1 hm
    cases hm
    exact charged_of_resolved hr ht

/-- The shifts charge as their mode says, and on A nothing is crossed. -/
theorem shift_charged {f : Byte → Bool → ShiftResult} (hc : pageCrossCosts mn .accumulator = false)
    (h : shift mn f o s = .ok t) : Charged mn o s t := by
  by_cases ho : o.mode = .accumulator
  · obtain rfl := operand_accumulator ho
    cases h
    exact charged_of_flat hc rfl
  · rw [shift_eq ho] at h
    obtain ⟨⟨e, s1⟩, he, h⟩ := bind_ok.1 h
    obtain ⟨⟨v, s2⟩, -, h⟩ := bind_ok.1 h
    obtain ⟨s3, -, h⟩ := bind_ok.1 h
    cases h
    exact charged_of_resolved he rfl

/-- Every rule but a branch's charges its base count and the page crossing of its operand. -/
theorem ruleOf_charged (hlegal : legalMode mn o.mode = true) (hrel : o.mode ≠ .relative) (h : ruleOf mn o s = .ok t) :
    Charged mn o s t := by
  cases mn with
  | lda | ldx | ldy | adc | sbc | and | ora | eor | cmp | cpx | cpy | bit =>
    obtain ⟨⟨m, s1⟩, hm, h⟩ := bind_ok.1 h
    cases h
    exact charged_of_read hm rfl
  | sta | stx | sty =>
    obtain ⟨⟨e, s1⟩, he, h⟩ := bind_ok.1 h
    obtain ⟨s2, -, h⟩ := bind_ok.1 h
    cases h
    exact charged_of_resolved he rfl
  | inc | dec =>
    obtain ⟨⟨e, s1⟩, he, h⟩ := bind_ok.1 h
    obtain ⟨⟨v, s2⟩, -, h⟩ := bind_ok.1 h
    obtain ⟨s3, -, h⟩ := bind_ok.1 h
    cases h
    exact charged_of_resolved he rfl
  | asl | lsr | rol | ror => exact shift_charged rfl h
  | jmp =>
    obtain ⟨⟨e, s1⟩, -, h⟩ := bind_ok.1 h
    cases h
    exact charged_of_flat rfl rfl
  | jsr =>
    obtain ⟨⟨e, s1⟩, -, h⟩ := bind_ok.1 h
    obtain ⟨s2, -, h⟩ := bind_ok.1 h
    cases h
    exact charged_of_flat rfl rfl
  | bcc | bcs | beq | bmi | bne | bpl | bvc | bvs => exact absurd (beq_iff_eq.1 hlegal) hrel
  | tax | tay | tsx | txa | tya | txs | inx | iny | dex | dey | clc | cld | cli | clv | sec | sed | sei | nop =>
    obtain rfl := operand_implied (beq_iff_eq.1 hlegal)
    cases h
    exact charged_of_flat rfl rfl
  | rts | plp | pla =>
    obtain rfl := operand_implied (beq_iff_eq.1 hlegal)
    obtain ⟨⟨v, s1⟩, -, h⟩ := bind_ok.1 h
    cases h
    exact charged_of_flat rfl rfl
  | brk | rti | php | pha =>
    obtain rfl := operand_implied (beq_iff_eq.1 hlegal)
    obtain ⟨s1, -, h⟩ := bind_ok.1 h
    cases h
    exact charged_of_flat rfl rfl

end

/-- Settles O49: the cell of an instruction holds what the rules charge (`cycleCells_of_instr`, `ruleOf_charged`); that every
cell is an instruction's by computation. -/
theorem cycleCountsFollowTheTable : Obligations.CycleCountsFollowTheTable := by
  refine ⟨fun i s t h hrel => ?_, instr_of_cell⟩
  obtain ⟨n, hbase, hcell⟩ := (cycleCells_of_instr i).resolve_left hrel
  obtain ⟨hflat, hcross⟩ : Charged i.mnemonic i.operand s t := ruleOf_charged (instr_legal i) hrel (rule_of_exec rfl h)
  refine ⟨n, _, hcell, fun hc => (hflat hc).trans hbase, fun hc => ?_⟩
  obtain ⟨r, s1, hr, ht⟩ := hcross hc
  refine ⟨r, s1, hr, ?_⟩
  rw [ht, show baseCycles i.mnemonic i.operand.mode = some n from hbase]
  cases r.crossed <;> rfl

end Sys2Proof.Machine
end

section
/-! PROOF. Reset (70_reset_and_hazards.md R600, R601). -/

namespace Sys2Proof.Machine

section
variable {s : State} {a : Word} {lo hi : Byte} {f : BusFailure}

/-! ### Two reads on any bus -/

/-- A word read where the bus answers both reads, low byte first (20_memory.md R68). -/
theorem read16_of_busRead (hlo : s.busRead a = .ok lo) (hhi : (s.logAccess ⟨.read, a, lo⟩).busRead (a + 1) = .ok hi) :
    read16 a s = .ok (joinBytes hi lo, (s.logAccess ⟨.read, a, lo⟩).logAccess ⟨.read, a + 1, hi⟩) := by
  rw [read16, memRead_ok_iff.2 ⟨hlo, rfl⟩, ok_bind]
  dsimp only
  rw [memRead_ok_iff.2 ⟨hhi, rfl⟩]
  rfl

theorem read16_of_low_failure (hlo : s.busRead a = .error f) :
    read16 a s = .error (.busFault f (s.busLeft ⟨.read, a, 0x00⟩)) := by
  rw [read16, memRead_error_iff.2 ⟨f, hlo, rfl⟩, error_bind]

theorem read16_of_high_failure (hlo : s.busRead a = .ok lo)
    (hhi : (s.logAccess ⟨.read, a, lo⟩).busRead (a + 1) = .error f) :
    read16 a s = .error (.busFault f ((s.logAccess ⟨.read, a, lo⟩).busLeft ⟨.read, a + 1, 0x00⟩)) := by
  rw [read16, memRead_ok_iff.2 ⟨hlo, rfl⟩, ok_bind]
  dsimp only
  rw [memRead_error_iff.2 ⟨f, hhi, rfl⟩, error_bind]

/-! ### The registers a reset sets play no part in what the bus answers -/

theorem State.powerUp_busRead (s : State) (r : ResetValues) (a : Word) : (s.powerUp r).busRead a = s.busRead a :=
  busRead_congr (s := s) (t := s.powerUp r) rfl rfl rfl rfl a

theorem State.powerUp_asked (s : State) (r : ResetValues) : (s.powerUp r).asked = s.asked := rfl

theorem State.powerUp_logAccess_busRead (s : State) (r : ResetValues) (acc : BusAccess) (a : Word) :
    ((s.powerUp r).logAccess acc).busRead a = (s.logAccess acc).busRead a := by
  have hasked : ((s.powerUp r).logAccess acc).asked = (s.logAccess acc).asked := by
    rw [State.logAccess_asked, State.logAccess_asked, State.powerUp_asked]
  exact busRead_congr (s := s.logAccess acc) (t := (s.powerUp r).logAccess acc) rfl rfl rfl hasked a

theorem readEntry_of_read16 {w : Word} {t : State} (h : read16 Config.resetVector s = .ok (w, t)) :
    readEntry s = .ok (t.setPC w) := by
  rw [readEntry, h]
  rfl

theorem readEntry_of_error {e : Fault} (h : read16 Config.resetVector s = .error e) : readEntry s = .error e := by
  rw [readEntry, h, error_bind]

end

/-- Settles O46: a reset sets the registers and reads a word at the vector, and the bus answers these two reads as it answers
the state the reset began in. -/
theorem resetReadsTheVector : Obligations.ResetReadsTheVector := by
  intro r s
  simp only [resetSession_eq, ← s.powerUp_busRead r, ← s.powerUp_logAccess_busRead r]
  refine ⟨fun lo hi hlo hhi => ?_, fun f hlo => ?_, fun lo f hlo hhi => ?_, fun h => ?_⟩
  · rw [readEntry_of_read16 (read16_of_busRead hlo hhi), finish_ok]
    rfl
  · rw [readEntry_of_error (read16_of_low_failure hlo), finish_error]
    rfl
  · rw [readEntry_of_error (read16_of_high_failure hlo hhi), finish_error]
    rfl
  · have hplain : (s.powerUp r).plainRam := h
    exact ⟨_, by rw [readEntry_of_read16 (read16_of_plain hplain _), finish_ok], rfl⟩

/-- Settles O47: `resetReadsTheVector`, of a memory that gives 0x00 at both addresses of the vector. -/
theorem resetStateIsTheResetSequence : Obligations.ResetStateIsTheResetSequence := by
  refine ⟨fun s hmem h hasked => ?_, rfl, rfl, rfl, rfl, rfl, rfl⟩
  have hbyte : ∀ a, s.readByte a = 0x00 := fun a => by rw [State.readByte, hmem]; rfl
  have hread : ∀ a, s.busRead a = .ok 0x00 := fun a => by rw [busRead_of_plain h, hbyte]
  obtain ⟨hreset, -⟩ := resetReadsTheVector Config.resetValues s
  rw [hreset 0x00 0x00 (hread _) ?_]
  · rw [hmem, h.1, h.2, hasked]
    rfl
  · rw [busRead_of_plain (s := s.logAccess _) h, State.logAccess_readByte, hbyte]

end Sys2Proof.Machine
end

section
/-! PROOF. How an instruction, a step and a session end (60_exceptions.md R500 to R536). -/

namespace Sys2Proof.Machine

/-! ### Completion -/

section
variable {m : State → Except Fault State} {s : State}

/-- The plain-RAM bus fails no access. -/
theorem not_fails_of_plain (h : s.plainRam) (b : BusFailure) : ¬s.fails b := by
  rintro (⟨-, hr⟩ | ⟨-, v, hw⟩)
  · simp [busRead_of_plain h] at hr
  · simp [busWrite_of_plain h] at hw

theorem plainRam_of_serve {u : State} {tr : List BusAccess} (h : s.plainRam) (hu : s.serve tr = .ok u) : u.plainRam := by
  rw [(serve_ok hu).1]
  exact h

/-- A run with no fault of its own answers on the plain-RAM bus. -/
theorem Runs.completes (hm : Runs (fun _ => False) .state m s) (h : s.plainRam) : ∃ t, m s = .ok t := by
  cases he : m s with
  | ok t => exact ⟨t, rfl⟩
  | error f =>
    obtain ⟨b, tr, acc, u, -, hserve, hfail, -⟩ := (hm.error f he).resolve_left id
    exact absurd (serveOne_fails hfail) (not_fails_of_plain (plainRam_of_serve h hserve) b)

end

/-- Settles O52: an instruction's rule is a run with no fault of its own (`instr_runs`), and the plain-RAM bus fails nothing. -/
theorem everyInstructionCompletes : Obligations.EveryInstructionCompletes := by
  refine ⟨fun i s h => ?_, fun i s => ?_⟩
  · obtain ⟨t, ht⟩ := (instr_runs i s).completes h
    exact ⟨t, by rw [exec_eq_rule, ht, finish_ok]⟩
  · cases hr : exec i s with
    | next t => exact .inl ⟨t, rfl⟩
    | fault f =>
      obtain ⟨b, left, rfl⟩ := instr_onlyBusFaults i s f hr
      exact .inr ⟨b, left, rfl⟩
    | refused r => exact absurd (exec_eq_rule i s ▸ hr) (finish_not_refused _ r)

/-! ### Steps and sessions -/

theorem step_fault {s : State} {f : Fault} (h : step s = .fault f) : IsDecodeFault f ∨ ∃ b left, f = .busFault b left := by
  rw [step_eq] at h
  exact ((fetchAndRun_runs s.clearOutputs).error f (finish_fault.1 h)).imp id
    fun ⟨b, tr, acc, u, e, _⟩ => ⟨b, u.busLeft acc, e⟩

theorem step_not_refused (s : State) (r : Refusal) : step s ≠ .refused r :=
  step_eq s ▸ finish_not_refused _ r

/-- What a session refuses: a step before the first reset, or after a BusFault (60_exceptions.md R536). -/
theorem act_refused_iff (e : Event) (x : Session) (r : Refusal) : act e x = .refused r ↔
    e = .step ∧ ((x.phase = .notStarted ∧ r = .stepBeforeReset) ∨ (x.phase = .afterBusFault ∧ r = .stepAfterBusFault)) := by
  cases e with
  | reset v => simp [act, resetSession_eq, finish_not_refused]
  | step =>
    obtain ⟨s, phase⟩ := x
    cases phase with
    | notStarted | afterBusFault => simp [act, eq_comm]
    | running => simp [act, step_not_refused]
  | getPC | setPC addr | foreignRead addr | foreignWrite addr v => simp [act]

theorem act_step_of_running {x : Session} (h : x.phase = .running) : act .step x = step x.core := by
  simp only [act, h]

/-- In a running session a step ends the running exactly when it ends with BusFault. -/
theorem after_step_eq_running_iff (o : StepOutcome) :
    Phase.running.after .step o = .running ↔ ∀ b left, o ≠ .fault (.busFault b left) := by
  cases o with
  | next t | refused r => simp [Phase.after]
  | fault f => cases f <;> simp [Phase.after]

theorem next_step_of_running {x : Session} (h : x.phase = .running) : x.next .step =
    ⟨stateAfter .step x.core (step x.core), Phase.running.after .step (step x.core)⟩ := by
  rw [Session.next, act_step_of_running h, h]

/-- Settles O53: a step is a run that DecodeFault or BusFault ends (`step_fault`), `act` refuses as R536 lists, and what a
BusFault leaves is `afterBusFault_mem`. -/
theorem onlyDecodeAndBusFaultsStop : Obligations.OnlyDecodeAndBusFaultsStop := by
  refine ⟨fun s f => step_fault, step_not_refused, act_refused_iff, fun x hx => ⟨act_step_of_running hx, ?_, ?_⟩,
    fun x v t h => ?_⟩
  · rw [next_step_of_running hx]
    exact after_step_eq_running_iff _
  · intro b left hstep
    rw [next_step_of_running hx, hstep, stateAfter_busFault]
    obtain ⟨-, -, hasked, hmem⟩ := afterBusFault_mem x.core (Config.afterBusFault x.core .step) left
    exact ⟨rfl, hasked, fun hkind => hmem.resolve_right fun hw => hkind hw.1⟩
  · simp only [Session.next, act, h]
    rfl

/-! ### The first failing access -/

section
variable {E : Fault → Prop} {m : State → Except Fault State} {s t : State}

/-- A run that answers on one bus ends, on another that fails one of the accesses of its trace after it has served those
before it, with BusFault for that access. -/
theorem Runs.busFault_of_failure (hm : Runs E .state m s) (ht : m s = .ok t) {tr : List BusAccess}
    (htr : t.accesses = s.accesses ++ tr) {bus : State} {f : BusFailure}
    (hf : (s.onBusOf bus).serve tr = .error (some f)) : ∃ left, m (s.onBusOf bus) = .error (.busFault f left) := by
  obtain ⟨tr', hserve, hbus⟩ := hm.ok t ht
  have htr' : t.accesses = s.accesses ++ tr' := congrArg State.accesses (serve_ok hserve).1
  obtain rfl : tr = tr' := List.append_cancel_left (htr.symm.trans htr')
  exact (hbus bus).2 f hf

/-- A BusFault that is none of a run's own is that of an access the bus fails after it has served a list, and on another
bus that fails one of these accesses after it has served those before it the fault is that one's. -/
theorem Runs.busFault_inv (hm : Runs E .state m s) {f : Fault} (hE : ¬E f) (h : m s = .error f) :
    ∃ b tr acc u, f = .busFault b ⟨u.mem, u.accesses, acc⟩ ∧ s.serve tr = .ok u ∧ u.serveOne acc = .error (some b) ∧
      u.fails b ∧ ∀ (bus : State) g, (s.onBusOf bus).serve (tr ++ [acc]) = .error (some g) →
        ∃ left, m (s.onBusOf bus) = .error (.busFault g left) := by
  obtain ⟨b, tr, acc, u, e, hserve, hfail, hbus⟩ := (hm.error f h).resolve_left hE
  exact ⟨b, tr, acc, u, e, hserve, hfail, serveOne_fails hfail, hbus⟩

/-- A run that answers when no access is always failed ends, with the failures listed, with BusFault for the first of its
accesses in the list, or as before when there is none. -/
theorem Runs.withFailures (hm : Runs E .state m { s with busFailures := [] })
    (ht : m { s with busFailures := [] } = .ok t) : ∃ tr, t.accesses = s.accesses ++ tr ∧
    (∀ f, firstFailure s.busFailures tr = some f → ∃ left, m s = .error (.busFault f left)) ∧
    (firstFailure s.busFailures tr = none → m s = .ok { t with busFailures := s.busFailures }) := by
  obtain ⟨tr, hserve, hbus⟩ := hm.ok t ht
  have hs := serve_firstFailure hserve
  refine ⟨tr, (congrArg State.accesses (serve_ok hserve).1 :), fun f hf => ?_, fun hnone => ?_⟩
  · rw [hf] at hs
    exact (hbus s).2 f hs
  · rw [hnone] at hs
    exact (hbus s).1 _ hs

theorem exec_busFault {i : Instr} {f : BusFailure} (h : ∃ left, ruleOf i.mnemonic i.operand s = .error (.busFault f left)) :
    ∃ left, exec i s = .fault (.busFault f left) :=
  h.imp fun _ hleft => by rw [exec_eq_rule, hleft, finish_error]

theorem step_busFault {f : BusFailure} (h : ∃ left, fetchAndRun s.clearOutputs = .error (.busFault f left)) :
    ∃ left, step s = .fault (.busFault f left) :=
  h.imp fun _ hleft => by rw [step_eq, hleft, finish_error]

theorem run_of_step (h : step s = .next t) : fetchAndRun s.clearOutputs = .ok t := finish_next.1 (step_eq s ▸ h)

end

/-- Settles O54: an instruction's rule and a step are runs (`instr_runs`, `fetchAndRun_runs`), and each clause but the one on
fetches (`fetchInstr_of_failure`) is a law of runs. -/
theorem firstFailingAccessEndsTheInstruction : Obligations.FirstFailingAccessEndsTheInstruction := by
  refine ⟨fun i s t bus tr f h htr hf => ?_, fun s t bus f h hf => ?_, fun i s f h => ?_, fun s b left h => ?_,
    fun s u i bs rest b f he hs hf => ?_, fun i s t h => ?_, fun s t h => ?_⟩
  · exact exec_busFault ((instr_runs (E := fun _ => False) i s).busFault_of_failure (rule_of_exec rfl h) htr hf)
  · exact step_busFault
      ((fetchAndRun_runs s.clearOutputs).busFault_of_failure (bus := bus.clearOutputs) (run_of_step h) rfl hf)
  · rw [exec_eq_rule] at h
    obtain ⟨b, tr, acc, u, e, hserve, hfail, hfails, hbus⟩ :=
      (instr_runs (E := fun _ => False) i s).busFault_inv id (finish_fault.1 h)
    exact ⟨b, tr, acc, u, e, hserve, hfail, hfails, fun bus g hg => exec_busFault (hbus bus g hg)⟩
  · rw [step_eq] at h
    obtain ⟨b', tr, acc, u, e, hserve, hfail, hfails, hbus⟩ :=
      (fetchAndRun_runs s.clearOutputs).busFault_inv (by rintro ⟨op, a, left, e⟩; cases e) (finish_fault.1 h)
    obtain ⟨rfl, rfl⟩ := Fault.busFault.inj e
    exact ⟨tr, acc, u, rfl, hserve, hfail, hfails, fun bus g hg => step_busFault (hbus bus.clearOutputs g hg)⟩
  · exact step_of_fetch_error (fetchInstr_of_failure (s := s.clearOutputs) he hs hf)
  · obtain ⟨tr, htr, hsome, hnone⟩ := (instr_runs (E := fun _ => False) i _).withFailures (rule_of_exec rfl h)
    refine ⟨tr, htr, ?_⟩
    split
    · exact exec_busFault (hsome _ ‹_›)
    · rw [exec_eq_rule, hnone ‹_›, finish_ok]
  · obtain ⟨tr, htr, hsome, hnone⟩ := (fetchAndRun_runs _).withFailures (s := s.clearOutputs) (run_of_step h)
    obtain rfl : t.accesses = tr := htr
    split
    · exact step_busFault (hsome _ ‹_›)
    · rw [step_eq, hnone ‹_›, finish_ok]
      rfl

end Sys2Proof.Machine
end
